-- ==== Sys2Proof/Word.lean ====
section
/-! DEFINITION. Sys2Proof/Word.lean: the words of the voice core (spec/00_scope.md R10, R11). Bit 0 is the least
significant bit of every value. -/

namespace Sys2Proof

/-- `u8`: a register cell, a byte of a snapshot. -/
abbrev Byte := BitVec 8

/-- The 16-bit command word `cmd[15:0]` (R70). -/
abbrev Word := BitVec 16

/-- `s16`: an audio sample, kept as its 16 bits and read with `toInt` (R11). -/
abbrev Sample := BitVec 16

/-- `s32`: a filter integrator or output value, kept as its 32 bits and read with `toInt` (R11). -/
abbrev S32 := BitVec 32

end Sys2Proof
end

