-- ==== Sys2Proof/Config.lean ====
section
/-! DEFINITION. Sys2Proof/Config.lean: what is fixed for an instance and is no state of it (spec/00_scope.md R5, R7;
spec/10_state.md R37): the sizes the source fixes, and the two configuration arguments of CREATE (spec/40_orchestrator.md
R100), the four variant parameters and the cutoff tables, whose data the spec leaves OPEN. The numeric parameters of
R6 stand in Sys2Proof/Machine/Params.lean. -/

namespace Sys2Proof

/-- The two filter personalities, models A and B (R1, R35). -/
inductive ChipModel where
  | A
  | B
  deriving DecidableEq, Repr

namespace Config

/-- `NUM_VOICES` (R5). -/
abbrev numVoices : Nat := 3

/-- `NUM_REGS` (R5): addresses 0 to 28. -/
abbrev numRegs : Nat := 29

/-- `SNAPSHOT_BYTES` (R5; spec/90_conflicts.md C4). -/
abbrev snapshotBytes : Nat := 112

/-- `RINGSIZE` (R6). -/
abbrev ringSize : Nat := 16384

/-- `RING_MODE` (R7). -/
inductive RingMode where
  | pulseSign
  | triMsbXor
  deriving DecidableEq, Repr

/-- `SYNC_EDGE` (R7). -/
inductive SyncEdge where
  | wrap
  | msbRise
  deriving DecidableEq, Repr

/-- `NOISE_MODEL` (R7). -/
inductive NoiseModel where
  | doc12
  | resid23
  deriving DecidableEq, Repr

/-- The four variant parameters of R7, fixed for the life of an instance. -/
structure Variant where
  ringMode           : RingMode
  syncEdge           : SyncEdge
  noiseModel         : NoiseModel
  gateResetsCounter  : Bool
  deriving DecidableEq, Repr

/-- The normative hardware: every variant parameter at its default (R7). -/
def Variant.normative : Variant :=
  { ringMode := .pulseSign, syncEdge := .wrap, noiseModel := .doc12, gateResetsCounter := true }

/-- `W0_TABLE` of an instance (spec/44_filter.md R225): two tables of 2048 non-negative integers each, given to the
instance by CREATE. -/
inductive CutoffTables where
  /-- Tables that the command does not write out, of data that no source gives: their entries are `w0Table`.
  Assumption 3. -/
  | unmeasured
  /-- The tables written out, of model A and of model B. -/
  | given (a b : Vector Nat 2048)
  deriving DecidableEq, Repr

/-- The configuration arguments given with CREATE (spec/40_orchestrator.md R100). -/
structure CreateArgs where
  variant : Variant
  tables  : CutoffTables
  deriving DecidableEq, Repr

/-- The arguments of a CREATE that names none: the normative hardware (R7), and tables not written out. Assumption 9. -/
def CreateArgs.default : CreateArgs := { variant := .normative, tables := .unmeasured }

/-- The entry `W0_TABLE[model][fc]` of tables not written out. No source gives the data (R225), so it is free, without a
body: whatever is proved holds for all tables. DESIGN CHOICE. Assumption 3. -/
opaque w0Table : ChipModel → BitVec 11 → Nat

/-- The truncation in `BuildFir` of a binary64 value that is no size: a NaN, an infinity, a value of −1 or less, or one of
2^64 or more. The spec gives no value there, so it is free: no body. DESIGN CHOICE. Assumption 14. -/
opaque firTrunc : Float → Nat

end Config

end Sys2Proof
end

