-- ==== Sys2Proof/Machine/Params.lean ====
section
/-! DEFINITION. Sys2Proof/Machine/Params.lean: the numeric parameters of spec/00_scope.md R6, each with the value the
spec gives it. Most are the spec's own decision or general knowledge of the chip; the spec makes them normative
(spec/93_implementation_defined.md, part 2). -/

namespace Sys2Proof.Machine.Params

open Sys2Proof.Config

/-- `NOISE_WIDTH` (R5, R7; spec/10_state.md R24). -/
def noiseWidth : NoiseModel → Nat
  | .doc12 => 12
  | .resid23 => 23

/-- `NOISE_SEED` (R6; spec/42_oscillator.md R173, R174). -/
def noiseSeed : NoiseModel → BitVec 23
  | .doc12 => 0xFFF#23
  | .resid23 => 0x7FFFF8#23

/-- `NOISE_CLOCK_BIT` (R6). -/
def noiseClockBit : Nat := 19

/-- `RATE_PERIOD[0..15]` (R6; spec/43_envelope.md R194). -/
def ratePeriodTable : Vector Nat 16 :=
  #v[9, 32, 63, 95, 149, 220, 267, 313, 392, 977, 1954, 3126, 3907, 11720, 19532, 31251]

/-- `EXP_BANDS`: the divisor of each band of levels (spec/43_envelope.md R197). -/
def expDiv (level : Nat) : Nat :=
  if level = 0 then 1
  else if level ≤ 6 then 30
  else if level ≤ 14 then 16
  else if level ≤ 26 then 8
  else if level ≤ 54 then 4
  else if level ≤ 93 then 2
  else 1

/-- `SUSTAIN_LEVEL(s)` = s × 0x11 (R6; spec/43_envelope.md R198). -/
def sustainScale : Nat := 0x11

/-- `W0_MAX` (R6). -/
def w0Max : Nat := 105414

/-- `Q1024[res]` (R6; spec/44_filter.md R226). -/
def q1024Table : Vector Nat 16 :=
  #v[1448, 1323, 1218, 1128, 1051, 984, 925, 872, 825, 783, 745, 710, 679, 650, 624, 599]

/-- `WAVE_ZERO` (R6). -/
def waveZero : Int := 0x800

/-- `VOICE_SHIFT` (R6). -/
def voiceShift : Nat := 7

/-- `EXT_IN_SHIFT` (R6). -/
def extInShift : Nat := 4

/-- `W_HP` (R6; spec/45_external_filter.md R241). -/
def wHp : Int := 105

/-- `W_LP` (R6; spec/45_external_filter.md R241). -/
def wLp : Int := 104858

/-- `OUT_BASE` (R6; spec/45_external_filter.md R243). -/
def outBase : Nat := 734220

/-- `DEFAULT_BITS` (R6; spec/45_external_filter.md R244). -/
def defaultBits : Nat := 16

/-- `FIXP_SHIFT` (R6; spec/46_sampler.md R251). -/
def fixpShift : Nat := 16

/-- `FIR_N` of the kernel-fits-the-ring check (R6; spec/46_sampler.md R253). -/
def firN : Nat := 125

/-- `FIR_RES` (R6; spec/46_sampler.md R255). -/
def firRes : Nat := 285

/-- `FIR_SHIFT` (R6; spec/46_sampler.md R255, R259). -/
def firShift : Nat := 15

/-- `POT_X` (R6; spec/40_orchestrator.md R118). -/
def potX : Byte := 0xFF#8

/-- `POT_Y` (R6; spec/40_orchestrator.md R119). -/
def potY : Byte := 0xFF#8

/-- `DEFAULT_CLOCK_FREQ` in Hz (R6). -/
def defaultClockFreq : Rat := 985248

/-- `DEFAULT_SAMPLE_FREQ` in Hz (R6). -/
def defaultSampleFreq : Rat := 44100

/-- The default of `pass_freq`, "choose" (spec/30_encoding.md R74). -/
def defaultPassFreq : Rat := -1

/-- `DEFAULT_FILTER_SCALE` = 97/100 (R6). -/
def defaultFilterScale : Rat := { num := 97, den := 100 }

/-- The `cps` of the default configuration (spec/10_state.md R39; spec/46_sampler.md R251). -/
def defaultCps : Nat := 1464154

/-- `CPS_MIN` (R6). -/
def cpsMin : Nat := 65536

/-- `CPS_MAX` (R6). -/
def cpsMax : Nat := 2 ^ 31 - 1

/-- The largest cycle count, sample capacity and interleave (spec/92_eei_decisions.md D34, D26). -/
def countMax : Int := 2 ^ 31 - 1

end Sys2Proof.Machine.Params
end

