-- ==== Sys2Proof/Syntax.lean ====
section
/-! DEFINITION. Sys2Proof/Syntax.lean: the commands of the voice core, one constructor of `Instr` for each row of
spec/opcode_table.json (spec/30_encoding.md R70 to R74), and the form in which the host issues them: a 16-bit command
word with an operand record beside it (R73). -/

namespace Sys2Proof

/-- The operand record a host command carries beside its word (R73, R74): the opcode fixes the shape. An operand that
R74 gives a default may be omitted (`none`). The ranges are wide, so that a value outside an operand's domain can be
written down and refused (spec/60_exceptions.md R303). Assumption 6. -/
inductive Operands where
  /-- No operand: every bus command and the host commands without operands. -/
  | bare
  /-- `model`: 0 is model A, 1 is model B. -/
  | model (m : Int)
  /-- `enable`. -/
  | enable (b : Bool)
  /-- `clock_freq`, `method`, `sample_freq`, `pass_freq` (default −1), `filter_scale` (default 97/100). -/
  | sampling (clockFreq : Rat) (method : Int) (sampleFreq : Rat) (passFreq filterScale : Option Rat)
  /-- `sample_freq`. -/
  | sampleFreq (fs : Rat)
  /-- `n`, a cycle count. -/
  | count (n : Int)
  /-- `delta_t`, `buf`, `n`, `interleave` (default 1). -/
  | samples (deltaT : Int) (buf : List Sample) (n : Int) (interleave : Option Int)
  /-- `sample`. -/
  | sample (x : Int)
  /-- `bits`. -/
  | bits (b : Int)
  /-- `blob`. -/
  | blob (bytes : List Byte)
  /-- No operand, with the configuration arguments given with CREATE (spec/40_orchestrator.md R100). -/
  | config (args : Config.CreateArgs)
  deriving DecidableEq, Repr

/-- A command as the host issues it. -/
structure Command where
  word     : Word
  operands : Operands
  deriving DecidableEq, Repr

/-- The commands, one constructor for each row of spec/opcode_table.json. -/
inductive Instr where
  /-- `WR_FREQLO1` (R104). -/
  | wrFreqLo1 (d : Byte)
  /-- `WR_FREQHI1` (R105). -/
  | wrFreqHi1 (d : Byte)
  /-- `WR_PWLO1` (R106). -/
  | wrPwLo1 (d : Byte)
  /-- `WR_PWHI1` (R107). -/
  | wrPwHi1 (d : Byte)
  /-- `WR_CTRL1` (R108). -/
  | wrCtrl1 (d : Byte)
  /-- `WR_AD1` (R109). -/
  | wrAd1 (d : Byte)
  /-- `WR_SR1` (R110). -/
  | wrSr1 (d : Byte)
  /-- `WR_FREQLO2` (R104). -/
  | wrFreqLo2 (d : Byte)
  /-- `WR_FREQHI2` (R105). -/
  | wrFreqHi2 (d : Byte)
  /-- `WR_PWLO2` (R106). -/
  | wrPwLo2 (d : Byte)
  /-- `WR_PWHI2` (R107). -/
  | wrPwHi2 (d : Byte)
  /-- `WR_CTRL2` (R108). -/
  | wrCtrl2 (d : Byte)
  /-- `WR_AD2` (R109). -/
  | wrAd2 (d : Byte)
  /-- `WR_SR2` (R110). -/
  | wrSr2 (d : Byte)
  /-- `WR_FREQLO3` (R104). -/
  | wrFreqLo3 (d : Byte)
  /-- `WR_FREQHI3` (R105). -/
  | wrFreqHi3 (d : Byte)
  /-- `WR_PWLO3` (R106). -/
  | wrPwLo3 (d : Byte)
  /-- `WR_PWHI3` (R107). -/
  | wrPwHi3 (d : Byte)
  /-- `WR_CTRL3` (R108). -/
  | wrCtrl3 (d : Byte)
  /-- `WR_AD3` (R109). -/
  | wrAd3 (d : Byte)
  /-- `WR_SR3` (R110). -/
  | wrSr3 (d : Byte)
  /-- `WR_FCLO` (R111). -/
  | wrFcLo (d : Byte)
  /-- `WR_FCHI` (R112). -/
  | wrFcHi (d : Byte)
  /-- `WR_RESFILT` (R113). -/
  | wrResFilt (d : Byte)
  /-- `WR_MODEVOL` (R114). -/
  | wrModeVol (d : Byte)
  /-- `WR_POTX` (R115). -/
  | wrPotX (d : Byte)
  /-- `WR_POTY` (R115). -/
  | wrPotY (d : Byte)
  /-- `WR_OSC3` (R115). -/
  | wrOsc3 (d : Byte)
  /-- `WR_ENV3` (R115). -/
  | wrEnv3 (d : Byte)
  /-- `RD_FREQLO1` (R117). -/
  | rdFreqLo1
  /-- `RD_FREQHI1` (R117). -/
  | rdFreqHi1
  /-- `RD_PWLO1` (R117). -/
  | rdPwLo1
  /-- `RD_PWHI1` (R117). -/
  | rdPwHi1
  /-- `RD_CTRL1` (R117). -/
  | rdCtrl1
  /-- `RD_AD1` (R117). -/
  | rdAd1
  /-- `RD_SR1` (R117). -/
  | rdSr1
  /-- `RD_FREQLO2` (R117). -/
  | rdFreqLo2
  /-- `RD_FREQHI2` (R117). -/
  | rdFreqHi2
  /-- `RD_PWLO2` (R117). -/
  | rdPwLo2
  /-- `RD_PWHI2` (R117). -/
  | rdPwHi2
  /-- `RD_CTRL2` (R117). -/
  | rdCtrl2
  /-- `RD_AD2` (R117). -/
  | rdAd2
  /-- `RD_SR2` (R117). -/
  | rdSr2
  /-- `RD_FREQLO3` (R117). -/
  | rdFreqLo3
  /-- `RD_FREQHI3` (R117). -/
  | rdFreqHi3
  /-- `RD_PWLO3` (R117). -/
  | rdPwLo3
  /-- `RD_PWHI3` (R117). -/
  | rdPwHi3
  /-- `RD_CTRL3` (R117). -/
  | rdCtrl3
  /-- `RD_AD3` (R117). -/
  | rdAd3
  /-- `RD_SR3` (R117). -/
  | rdSr3
  /-- `RD_FCLO` (R117). -/
  | rdFcLo
  /-- `RD_FCHI` (R117). -/
  | rdFcHi
  /-- `RD_RESFILT` (R117). -/
  | rdResFilt
  /-- `RD_MODEVOL` (R117). -/
  | rdModeVol
  /-- `RD_POTX` (R118). -/
  | rdPotX
  /-- `RD_POTY` (R119). -/
  | rdPotY
  /-- `RD_OSC3` (R120). -/
  | rdOsc3
  /-- `RD_ENV3` (R121). -/
  | rdEnv3
  /-- `CREATE` (R100). It has no operands (R74); the configuration arguments given with it stand in `State.createArgs`. -/
  | create
  /-- `RELEASE` (R101). -/
  | release
  /-- `RESET` (R102). -/
  | reset
  /-- `SET_CHIP_MODEL` (R122). -/
  | setChipModel (model : Int)
  /-- `ENABLE_FILTER` (R123). -/
  | enableFilter (enable : Bool)
  /-- `ENABLE_EXT_FILTER` (R124). -/
  | enableExtFilter (enable : Bool)
  /-- `SET_SAMPLING_PARAMETERS` (R252). -/
  | setSamplingParameters (clockFreq : Rat) (method : Int) (sampleFreq : Rat) (passFreq : Rat) (filterScale : Rat)
  /-- `ADJUST_SAMPLING_FREQUENCY` (R256). -/
  | adjustSamplingFrequency (sampleFreq : Rat)
  /-- `CLOCK1` (R143). -/
  | clock1
  /-- `CLOCKN` (R144). -/
  | clockN (n : Int)
  /-- `CLOCK_SAMPLES` (R145). -/
  | clockSamples (deltaT : Int) (buf : List Sample) (n : Int) (interleave : Int)
  /-- `INPUT` (R125). -/
  | input (sample : Int)
  /-- `OUTPUT` (R126). -/
  | output
  /-- `OUTPUT_BITS` (R127). -/
  | outputBits (bits : Int)
  /-- `READ_STATE` (R291). -/
  | readState
  /-- `WRITE_STATE` (R292). -/
  | writeState (blob : List Byte)
  deriving DecidableEq, Repr

end Sys2Proof
end

