-- ==== Sys2Proof/Decode.lean ====
section
/-! DEFINITION. Sys2Proof/Decode.lean: from a command word and its operand record to an instruction, total and refusing
by name (spec/30_encoding.md R70 to R75, R87, R88), and the encoder that goes back. -/

namespace Sys2Proof

open Sys2Proof.Machine

/-- Why a command is no instruction. -/
inductive DecodeError where
  /-- A reserved command word (R75). -/
  | reservedEncoding
  /-- The record beside the word has not the shape that the opcode fixes (R73, R87). Assumption 6. -/
  | operandShape
  deriving DecidableEq, Repr

/-- The class field `cmd[15:14]` (R70). -/
def classField (w : Word) : BitVec 2 := w.extractLsb' 14 2

/-- Bit 13, which must be 0 in every class (R71 to R73). -/
def bit13 (w : Word) : BitVec 1 := w.extractLsb' 13 1

/-- Field A, `cmd[12:8]` (R70). -/
def addrField (w : Word) : BitVec 5 := w.extractLsb' 8 5

/-- Fields D and O, `cmd[7:0]` (R70). -/
def lowByte (w : Word) : Byte := w.extractLsb' 0 8

/-- BUS-W rows by address (R71). -/
def writeRow (a : Nat) (d : Byte) : Option Instr :=
  match a with
  | 0 => some (.wrFreqLo1 d)
  | 1 => some (.wrFreqHi1 d)
  | 2 => some (.wrPwLo1 d)
  | 3 => some (.wrPwHi1 d)
  | 4 => some (.wrCtrl1 d)
  | 5 => some (.wrAd1 d)
  | 6 => some (.wrSr1 d)
  | 7 => some (.wrFreqLo2 d)
  | 8 => some (.wrFreqHi2 d)
  | 9 => some (.wrPwLo2 d)
  | 10 => some (.wrPwHi2 d)
  | 11 => some (.wrCtrl2 d)
  | 12 => some (.wrAd2 d)
  | 13 => some (.wrSr2 d)
  | 14 => some (.wrFreqLo3 d)
  | 15 => some (.wrFreqHi3 d)
  | 16 => some (.wrPwLo3 d)
  | 17 => some (.wrPwHi3 d)
  | 18 => some (.wrCtrl3 d)
  | 19 => some (.wrAd3 d)
  | 20 => some (.wrSr3 d)
  | 21 => some (.wrFcLo d)
  | 22 => some (.wrFcHi d)
  | 23 => some (.wrResFilt d)
  | 24 => some (.wrModeVol d)
  | 25 => some (.wrPotX d)
  | 26 => some (.wrPotY d)
  | 27 => some (.wrOsc3 d)
  | 28 => some (.wrEnv3 d)
  | _ => none

/-- BUS-R rows by address (R72). -/
def readRow (a : Nat) : Option Instr :=
  match a with
  | 0 => some .rdFreqLo1
  | 1 => some .rdFreqHi1
  | 2 => some .rdPwLo1
  | 3 => some .rdPwHi1
  | 4 => some .rdCtrl1
  | 5 => some .rdAd1
  | 6 => some .rdSr1
  | 7 => some .rdFreqLo2
  | 8 => some .rdFreqHi2
  | 9 => some .rdPwLo2
  | 10 => some .rdPwHi2
  | 11 => some .rdCtrl2
  | 12 => some .rdAd2
  | 13 => some .rdSr2
  | 14 => some .rdFreqLo3
  | 15 => some .rdFreqHi3
  | 16 => some .rdPwLo3
  | 17 => some .rdPwHi3
  | 18 => some .rdCtrl3
  | 19 => some .rdAd3
  | 20 => some .rdSr3
  | 21 => some .rdFcLo
  | 22 => some .rdFcHi
  | 23 => some .rdResFilt
  | 24 => some .rdModeVol
  | 25 => some .rdPotX
  | 26 => some .rdPotY
  | 27 => some .rdOsc3
  | 28 => some .rdEnv3
  | _ => none

/-- `i` if the record is the empty one. -/
def bareInstr (i : Instr) : Operands → Except DecodeError Instr
  | .bare => .ok i
  | _ => .error .operandShape

/-- A bus row, which carries no operand record. -/
def busInstr (row : Option Instr) (ops : Operands) : Except DecodeError Instr :=
  match row with
  | none => .error .reservedEncoding
  | some i => bareInstr i ops

/-- HOST rows by opcode, with the record's shape and the defaults of R74. CREATE has no operands; the
configuration arguments that R100 gives with it may stand in its record. Assumption 9. -/
def hostRow (o : Nat) (ops : Operands) : Except DecodeError Instr :=
  match o with
  | 0x00 =>
    match ops with
    | .bare => .ok .create
    | .config _ => .ok .create
    | _ => .error .operandShape
  | 0x01 => bareInstr .release ops
  | 0x02 => bareInstr .reset ops
  | 0x03 =>
    match ops with
    | .model m => .ok (.setChipModel m)
    | _ => .error .operandShape
  | 0x04 =>
    match ops with
    | .enable b => .ok (.enableFilter b)
    | _ => .error .operandShape
  | 0x05 =>
    match ops with
    | .enable b => .ok (.enableExtFilter b)
    | _ => .error .operandShape
  | 0x06 =>
    match ops with
    | .sampling fc m fs pass scale =>
      .ok (.setSamplingParameters fc m fs (pass.getD Params.defaultPassFreq)
        (scale.getD Params.defaultFilterScale))
    | _ => .error .operandShape
  | 0x07 =>
    match ops with
    | .sampleFreq fs => .ok (.adjustSamplingFrequency fs)
    | _ => .error .operandShape
  | 0x08 => bareInstr .clock1 ops
  | 0x09 =>
    match ops with
    | .count n => .ok (.clockN n)
    | _ => .error .operandShape
  | 0x0A =>
    match ops with
    | .samples dt buf n il => .ok (.clockSamples dt buf n (il.getD 1))
    | _ => .error .operandShape
  | 0x0B =>
    match ops with
    | .sample x => .ok (.input x)
    | _ => .error .operandShape
  | 0x0C => bareInstr .output ops
  | 0x0D =>
    match ops with
    | .bits b => .ok (.outputBits b)
    | _ => .error .operandShape
  | 0x0E => bareInstr .readState ops
  | 0x0F =>
    match ops with
    | .blob bytes => .ok (.writeState bytes)
    | _ => .error .operandShape
  | _ => .error .reservedEncoding

/-- The decoder (R70 to R75, R87): the class, then the row within it, with the operands the row expects. -/
def decode (c : Command) : Except DecodeError Instr :=
  if bit13 c.word = 1#1 then .error .reservedEncoding
  else if classField c.word = 0#2 then
    busInstr (writeRow (addrField c.word).toNat (lowByte c.word)) c.operands
  else if classField c.word = 1#2 then
    if lowByte c.word = 0#8 then busInstr (readRow (addrField c.word).toNat) c.operands
    else .error .reservedEncoding
  else if classField c.word = 2#2 then
    if addrField c.word = 0#5 then hostRow (lowByte c.word).toNat c.operands
    else .error .reservedEncoding
  else .error .reservedEncoding

/-- The record that stands beside a word given alone (the opcode table gives the operands no bits): each operand at 0,
false or its default where its domain admits that, and else at a value of its domain. Assumption 7. -/
def tableOperands (w : Word) : Operands :=
  match w.toNat with
  | 0x8003 => .model 0
  | 0x8004 => .enable false
  | 0x8005 => .enable false
  | 0x8006 => .sampling Params.defaultClockFreq 0 Params.defaultSampleFreq none none
  | 0x8007 => .sampleFreq Params.defaultSampleFreq
  | 0x8009 => .count 0
  | 0x800A => .samples 0 [] 0 none
  | 0x800B => .sample 0
  | 0x800D => .bits 16
  | 0x800F => .blob (List.replicate 112 0#8)
  | _ => .bare

/-- The command of a table word of `nbits` bits. -/
def tableCommand (nbits w : Nat) : Command :=
  let word := BitVec.ofNat 16 (w % 2 ^ nbits)
  { word := word, operands := tableOperands word }

/-- The instruction the decoder reads from a table word. -/
def decodeTableWord (nbits w : Nat) : Option Instr :=
  match decode (tableCommand nbits w) with
  | .ok i => some i
  | .error _ => none

/-! The encoder, written from the layouts of R70 and the tables of R74 and R88. -/

/-- BUS-W: `0 0 0 A4..A0 D7..D0` (R70). -/
def busWriteWord (a : BitVec 5) (d : Byte) : Word := 0b000#3 ++ a ++ d

/-- BUS-R: `0 1 0 A4..A0 00000000` (R70). -/
def busReadWord (a : BitVec 5) : Word := 0b010#3 ++ a ++ 0#8

/-- HOST: `1 0 0 00000 O7..O0` (R70). -/
def hostWord (o : Byte) : Word := 0b100#3 ++ 0#5 ++ o

/-- The command that stands for an instruction, with every operand written out. -/
def encode : Instr → Command
  | .wrFreqLo1 d => ⟨busWriteWord 0#5 d, .bare⟩
  | .wrFreqHi1 d => ⟨busWriteWord 1#5 d, .bare⟩
  | .wrPwLo1 d => ⟨busWriteWord 2#5 d, .bare⟩
  | .wrPwHi1 d => ⟨busWriteWord 3#5 d, .bare⟩
  | .wrCtrl1 d => ⟨busWriteWord 4#5 d, .bare⟩
  | .wrAd1 d => ⟨busWriteWord 5#5 d, .bare⟩
  | .wrSr1 d => ⟨busWriteWord 6#5 d, .bare⟩
  | .wrFreqLo2 d => ⟨busWriteWord 7#5 d, .bare⟩
  | .wrFreqHi2 d => ⟨busWriteWord 8#5 d, .bare⟩
  | .wrPwLo2 d => ⟨busWriteWord 9#5 d, .bare⟩
  | .wrPwHi2 d => ⟨busWriteWord 10#5 d, .bare⟩
  | .wrCtrl2 d => ⟨busWriteWord 11#5 d, .bare⟩
  | .wrAd2 d => ⟨busWriteWord 12#5 d, .bare⟩
  | .wrSr2 d => ⟨busWriteWord 13#5 d, .bare⟩
  | .wrFreqLo3 d => ⟨busWriteWord 14#5 d, .bare⟩
  | .wrFreqHi3 d => ⟨busWriteWord 15#5 d, .bare⟩
  | .wrPwLo3 d => ⟨busWriteWord 16#5 d, .bare⟩
  | .wrPwHi3 d => ⟨busWriteWord 17#5 d, .bare⟩
  | .wrCtrl3 d => ⟨busWriteWord 18#5 d, .bare⟩
  | .wrAd3 d => ⟨busWriteWord 19#5 d, .bare⟩
  | .wrSr3 d => ⟨busWriteWord 20#5 d, .bare⟩
  | .wrFcLo d => ⟨busWriteWord 21#5 d, .bare⟩
  | .wrFcHi d => ⟨busWriteWord 22#5 d, .bare⟩
  | .wrResFilt d => ⟨busWriteWord 23#5 d, .bare⟩
  | .wrModeVol d => ⟨busWriteWord 24#5 d, .bare⟩
  | .wrPotX d => ⟨busWriteWord 25#5 d, .bare⟩
  | .wrPotY d => ⟨busWriteWord 26#5 d, .bare⟩
  | .wrOsc3 d => ⟨busWriteWord 27#5 d, .bare⟩
  | .wrEnv3 d => ⟨busWriteWord 28#5 d, .bare⟩
  | .rdFreqLo1 => ⟨busReadWord 0#5, .bare⟩
  | .rdFreqHi1 => ⟨busReadWord 1#5, .bare⟩
  | .rdPwLo1 => ⟨busReadWord 2#5, .bare⟩
  | .rdPwHi1 => ⟨busReadWord 3#5, .bare⟩
  | .rdCtrl1 => ⟨busReadWord 4#5, .bare⟩
  | .rdAd1 => ⟨busReadWord 5#5, .bare⟩
  | .rdSr1 => ⟨busReadWord 6#5, .bare⟩
  | .rdFreqLo2 => ⟨busReadWord 7#5, .bare⟩
  | .rdFreqHi2 => ⟨busReadWord 8#5, .bare⟩
  | .rdPwLo2 => ⟨busReadWord 9#5, .bare⟩
  | .rdPwHi2 => ⟨busReadWord 10#5, .bare⟩
  | .rdCtrl2 => ⟨busReadWord 11#5, .bare⟩
  | .rdAd2 => ⟨busReadWord 12#5, .bare⟩
  | .rdSr2 => ⟨busReadWord 13#5, .bare⟩
  | .rdFreqLo3 => ⟨busReadWord 14#5, .bare⟩
  | .rdFreqHi3 => ⟨busReadWord 15#5, .bare⟩
  | .rdPwLo3 => ⟨busReadWord 16#5, .bare⟩
  | .rdPwHi3 => ⟨busReadWord 17#5, .bare⟩
  | .rdCtrl3 => ⟨busReadWord 18#5, .bare⟩
  | .rdAd3 => ⟨busReadWord 19#5, .bare⟩
  | .rdSr3 => ⟨busReadWord 20#5, .bare⟩
  | .rdFcLo => ⟨busReadWord 21#5, .bare⟩
  | .rdFcHi => ⟨busReadWord 22#5, .bare⟩
  | .rdResFilt => ⟨busReadWord 23#5, .bare⟩
  | .rdModeVol => ⟨busReadWord 24#5, .bare⟩
  | .rdPotX => ⟨busReadWord 25#5, .bare⟩
  | .rdPotY => ⟨busReadWord 26#5, .bare⟩
  | .rdOsc3 => ⟨busReadWord 27#5, .bare⟩
  | .rdEnv3 => ⟨busReadWord 28#5, .bare⟩
  | .create => ⟨hostWord 0x00#8, .bare⟩
  | .release => ⟨hostWord 0x01#8, .bare⟩
  | .reset => ⟨hostWord 0x02#8, .bare⟩
  | .setChipModel model => ⟨hostWord 0x03#8, .model model⟩
  | .enableFilter enable => ⟨hostWord 0x04#8, .enable enable⟩
  | .enableExtFilter enable => ⟨hostWord 0x05#8, .enable enable⟩
  | .setSamplingParameters clockFreq method sampleFreq passFreq filterScale => ⟨hostWord 0x06#8, .sampling clockFreq method sampleFreq (some passFreq) (some filterScale)⟩
  | .adjustSamplingFrequency sampleFreq => ⟨hostWord 0x07#8, .sampleFreq sampleFreq⟩
  | .clock1 => ⟨hostWord 0x08#8, .bare⟩
  | .clockN n => ⟨hostWord 0x09#8, .count n⟩
  | .clockSamples deltaT buf n interleave => ⟨hostWord 0x0A#8, .samples deltaT buf n (some interleave)⟩
  | .input sample => ⟨hostWord 0x0B#8, .sample sample⟩
  | .output => ⟨hostWord 0x0C#8, .bare⟩
  | .outputBits bits => ⟨hostWord 0x0D#8, .bits bits⟩
  | .readState => ⟨hostWord 0x0E#8, .bare⟩
  | .writeState blob => ⟨hostWord 0x0F#8, .blob blob⟩

end Sys2Proof
end

