-- ==== Sys2Proof/Machine/State.lean ====
section
/-! DEFINITION. Sys2Proof/Machine/State.lean: every piece of state one instance holds (spec/10_state.md), the host's
side of the interface (the commands not yet run, the last result, the caller's sample buffer), and the state after
CREATE, which is the block's power-up (spec/70_reset_and_hazards.md R330). -/

namespace Sys2Proof.Machine

open Sys2Proof

/-- `phase[v]` (R27): the ADSR phase tag. The value 3 does not exist. -/
inductive Phase where
  | attack
  | decayOrSustain
  | release
  deriving DecidableEq, Repr

/-- The state of one voice (R23, R24, R26 to R29). -/
structure Voice where
  /-- `acc[v]`, u24: the phase accumulator. -/
  acc   : BitVec 24
  /-- `lfsr[v]`: the noise register, in the low `NOISE_WIDTH` bits (12 or 23). Assumption 5. -/
  lfsr  : BitVec 23
  /-- `level[v]`, u8: the envelope level. -/
  level : BitVec 8
  /-- `phase[v]`. -/
  phase : Phase
  /-- `rc[v]`, u15: the rate counter. -/
  rc    : BitVec 15
  /-- `exp[v]`, u5: the exponential-band sub-counter. -/
  exp   : BitVec 5
  deriving DecidableEq, Repr

/-- The three voices: index 0, 1, 2 is the source's voice 1, 2, 3. -/
structure Voices where
  voice1 : Voice
  voice2 : Voice
  voice3 : Voice
  deriving DecidableEq, Repr

/-- Voice v. -/
def Voices.get (vs : Voices) (v : Fin 3) : Voice :=
  match v with
  | 0 => vs.voice1
  | 1 => vs.voice2
  | 2 => vs.voice3

/-- All three voices, each by its index: what the spec does "for v in 0..2" on disjoint state. -/
def Voices.ofFn (f : Fin 3 → Voice) : Voices := { voice1 := f 0, voice2 := f 1, voice3 := f 2 }

/-- Voice v replaced. -/
def Voices.set (vs : Voices) (v : Fin 3) (x : Voice) : Voices :=
  Voices.ofFn fun u => if u = v then x else vs.get u

/-- The FIR set (R34): `fir_N`, `fir_RES` and the `fir_N × fir_RES` taps, row after row. -/
structure FirSet where
  n    : Nat
  res  : Nat
  taps : List Sample
  deriving DecidableEq, Repr

/-- `method` (R34). RESAMPLE carries the FIR set, which exists exactly under that method (spec/46_sampler.md R254). -/
inductive SampleMethod where
  | decimate
  | interpolate
  | resample (fir : FirSet)
  deriving DecidableEq, Repr

/-- The sampler ring in canonical form: (index, sample) pairs, the indexes strictly rising and below `RINGSIZE`, no
sample 0. An index without a pair holds 0. Assumption 4. -/
abbrev Ring := List (Nat × Sample)

/-- What a *done* command gives back (spec/00_scope.md R9; spec/30_encoding.md R74). -/
inductive Result where
  /-- The command gives no result. -/
  | none
  /-- A register read. -/
  | byte (b : Byte)
  /-- SET_SAMPLING_PARAMETERS. -/
  | flag (b : Bool)
  /-- OUTPUT and OUTPUT_BITS. -/
  | sample (x : Int)
  /-- CLOCK_SAMPLES: samples written, cycles remaining. -/
  | counts (written remaining : Nat)
  /-- READ_STATE. -/
  | blob (bytes : List Byte)
  deriving DecidableEq, Repr

/-- The machine's state. -/
structure State where
  /-- The host's commands not yet run, the next first (R20: the stream is the host's). Assumption 1. -/
  cmds        : List Command
  /-- The result of the last command. Assumption 1. -/
  result      : Result
  /-- The caller's sample buffer as the last CLOCK_SAMPLES left it (spec/20_memory.md R55). Assumption 1. -/
  callerBuf   : List Sample
  /-- The configuration arguments given with the command that runs (spec/40_orchestrator.md R100). Assumption 9. -/
  createArgs  : Config.CreateArgs
  /-- The variant parameters of the instance (spec/00_scope.md R7), given by CREATE. Assumption 2. -/
  variant     : Config.Variant
  /-- `W0_TABLE` of the instance (spec/44_filter.md R225), given by CREATE. Assumptions 2 and 3. -/
  tables      : Config.CutoffTables
  /-- `alive` (R36). -/
  alive       : Bool
  /-- `reg[0..28]` (R21). -/
  regs        : Vector Byte 29
  /-- `acc`, `lfsr`, `level`, `phase`, `rc`, `exp` of each voice (R23 to R29). -/
  voices      : Voices
  /-- `bp` (R30). -/
  bp          : S32
  /-- `lp` (R30). -/
  lp          : S32
  /-- `ext_hp` (R31). -/
  extHp       : S32
  /-- `ext_lp` (R31). -/
  extLp       : S32
  /-- `ext_out` (R31). -/
  extOut      : S32
  /-- `ext_in` (R32). -/
  extIn       : Sample
  /-- `so` (R33), 16.16 fixed point. -/
  so          : S32
  /-- `sprev` (R33). -/
  sprev       : Sample
  /-- `ring[0..RINGSIZE−1]` (R33). -/
  ring        : Ring
  /-- `ri` (R33), u14. -/
  ri          : BitVec 14
  /-- `model` (R35). -/
  model       : ChipModel
  /-- `filter_en` (R35). -/
  filterEn    : Bool
  /-- `ext_en` (R35). -/
  extEn       : Bool
  /-- `method`, with the FIR set (R34). -/
  method      : SampleMethod
  /-- `clock_freq` (R34). -/
  clockFreq   : Rat
  /-- `sample_freq` (R34). -/
  sampleFreq  : Rat
  /-- `pass_freq` (R34). -/
  passFreq    : Rat
  /-- `filter_scale` (R34). -/
  filterScale : Rat
  /-- `cps` (R34). -/
  cps         : Nat
  deriving DecidableEq, Repr

/-- No command has a fault outcome (spec/00_scope.md R9; spec/60_exceptions.md R300): there is no fault reason. -/
inductive Fault where
  deriving DecidableEq, Repr

/-- Why a command is refused: the reasons of spec/60_exceptions.md R303, with two of the model's own. A refusal ends
the run with no next state, as the spec says, so every one is safe. -/
inductive Refusal where
  /-- Raised by `exec` for an instruction that has no meaning yet. Safe. -/
  | notModelled (mnemonic : String)
  /-- Code 1: any command but CREATE on an instance that is not alive. Safe. -/
  | notAlive
  /-- Code 2: a reserved command word; raised by the step. Safe. -/
  | reservedEncoding
  /-- Code 3: `WRITE` or `READ` of an address above 28; no command word names one. Safe. -/
  | addressOutOfRange
  /-- Code 4: CLOCKN and CLOCK_SAMPLES, a cycle count or capacity outside [0, 2^31 − 1]. Safe. -/
  | badCount
  /-- Code 5: CLOCK_SAMPLES, an interleave outside [1, 2^31 − 1]. Safe. -/
  | badInterleave
  /-- Code 6: CLOCK_SAMPLES, a buffer shorter than `n × interleave`. Safe. -/
  | bufferTooSmall
  /-- Code 7: OUTPUT_BITS, a depth outside [1, 19]. Safe. -/
  | badBits
  /-- Code 8: INPUT, a sample outside [−32768, 32767]. Safe. -/
  | badSample
  /-- Code 9: SET_CHIP_MODEL, a model outside {A, B}. Safe. -/
  | badModel
  /-- Code 10: WRITE_STATE, a blob of another length than 112 or with a phase byte above 2. Safe. -/
  | badSnapshot
  /-- Code 11: ADJUST_SAMPLING_FREQUENCY, a frequency ≤ 0 or a ratio outside the cps range. Safe. -/
  | badSampleFreq
  /-- The model's own: the record beside the word has not the shape its opcode fixes; raised by the step. Safe.
  Assumption 6. -/
  | badOperandRecord
  deriving DecidableEq, Repr

/-- A voice after CREATE and after RESET (R39), under a noise model. -/
def Voice.initial (m : Config.NoiseModel) : Voice :=
  { acc := 0#24, lfsr := Params.noiseSeed m, level := 0#8, phase := .release, rc := 0#15, exp := 0#5 }

/-- The state of an instance after CREATE (R39) with these configuration arguments, with no command pending and no
result. -/
def State.created (args : Config.CreateArgs) : State :=
  { cmds := []
    result := .none
    callerBuf := []
    createArgs := args
    variant := args.variant
    tables := args.tables
    alive := true
    regs := Vector.replicate 29 0#8
    voices := Voices.ofFn fun _ => Voice.initial args.variant.noiseModel
    bp := 0#32
    lp := 0#32
    extHp := 0#32
    extLp := 0#32
    extOut := 0#32
    extIn := 0#16
    so := 0#32
    sprev := 0#16
    ring := []
    ri := 0#14
    model := .A
    filterEn := true
    extEn := true
    method := .decimate
    clockFreq := Params.defaultClockFreq
    sampleFreq := Params.defaultSampleFreq
    passFreq := Params.defaultPassFreq
    filterScale := Params.defaultFilterScale
    cps := Params.defaultCps }

/-- The machine right after power-up (spec/70_reset_and_hazards.md R330): a fresh instance of the normative hardware, its
cutoff tables open. Assumptions 2 and 3. -/
def State.reset : State := State.created Config.CreateArgs.default

end Sys2Proof.Machine
end

