-- ==== Sys2Proof/Machine/Operands.lean ====
section
/-! DEFINITION. Sys2Proof/Machine/Operands.lean: the field decoders of the register file (spec/30_encoding.md R76 to
R83), the integer primitives of spec/00_scope.md R11, and the little-endian fields of the snapshot (spec/20_memory.md
R53). No live parameter is state: each is a function of the registers (spec/10_state.md R22). -/

namespace Sys2Proof.Machine

open Sys2Proof

/-! ## Integers (R11) -/

/-- `s32(x)`: x reduced to a signed 32-bit value. -/
def s32 (x : Int) : S32 := BitVec.ofInt 32 x

/-- x reduced to an s16. -/
def s16 (x : Int) : Sample := BitVec.ofInt 16 x

/-- `x >> k`, the arithmetic shift: floor(x / 2^k). -/
def asr (x : Int) (k : Nat) : Int := x >>> k

/-- `x << k`: x × 2^k. -/
def shl (x : Int) (k : Nat) : Int := x * 2 ^ k

/-- `clamp(x, lo, hi)`. -/
def clamp (x lo hi : Int) : Int := min (max x lo) hi

/-! ## Register cells and fields -/

/-- `reg[a]`. -/
def State.reg (s : State) (a : Fin 29) : Byte := s.regs[a]

/-- Voice v of the state. -/
def State.voice (s : State) (v : Fin 3) : Voice := s.voices.get v

/-- The address of register k of voice v: 7v + k (R76). -/
def voiceAddr (v : Fin 3) (k : Fin 7) : Fin 29 := ⟨7 * v.val + k.val, by omega⟩

/-- `reg[7v+4]`, CONTROL (R77). -/
def State.ctrl (s : State) (v : Fin 3) : Byte := s.reg (voiceAddr v 4)

/-- `sel(v) = reg[7v+4][7:4]`, the waveform mask (R77). -/
def State.sel (s : State) (v : Fin 3) : BitVec 4 := (s.ctrl v).extractLsb' 4 4

/-- TEST, bit 3 of CONTROL (R77). -/
def State.test (s : State) (v : Fin 3) : Bool := (s.ctrl v)[3]

/-- RING, bit 2 of CONTROL (R77). -/
def State.ringBit (s : State) (v : Fin 3) : Bool := (s.ctrl v)[2]

/-- SYNC, bit 1 of CONTROL (R77). -/
def State.sync (s : State) (v : Fin 3) : Bool := (s.ctrl v)[1]

/-- GATE, bit 0 of CONTROL (R77). -/
def State.gate (s : State) (v : Fin 3) : Bool := (s.ctrl v)[0]

/-- `attack(v)`, the high nibble of AD (R78). -/
def State.attack (s : State) (v : Fin 3) : BitVec 4 := (s.reg (voiceAddr v 5)).extractLsb' 4 4

/-- `decay(v)`, the low nibble of AD (R78). -/
def State.decay (s : State) (v : Fin 3) : BitVec 4 := (s.reg (voiceAddr v 5)).extractLsb' 0 4

/-- `sustain(v)`, the high nibble of SR (R78). -/
def State.sustain (s : State) (v : Fin 3) : BitVec 4 := (s.reg (voiceAddr v 6)).extractLsb' 4 4

/-- `release(v)`, the low nibble of SR (R78). -/
def State.release (s : State) (v : Fin 3) : BitVec 4 := (s.reg (voiceAddr v 6)).extractLsb' 0 4

/-- `freq(v) = {reg[7v+1], reg[7v]}` (R79). -/
def State.freq (s : State) (v : Fin 3) : BitVec 16 := s.reg (voiceAddr v 1) ++ s.reg (voiceAddr v 0)

/-- `pw(v) = {reg[7v+3][3:0], reg[7v+2]}` (R80). -/
def State.pw (s : State) (v : Fin 3) : BitVec 12 :=
  (s.reg (voiceAddr v 3)).extractLsb' 0 4 ++ s.reg (voiceAddr v 2)

/-- `fc = {reg[22], reg[21][2:0]}` (R81). -/
def State.fc (s : State) : BitVec 11 := s.reg 22 ++ (s.reg 21).extractLsb' 0 3

/-- `res = reg[23][7:4]` (R82). -/
def State.res (s : State) : BitVec 4 := (s.reg 23).extractLsb' 4 4

/-- `filt = reg[23][3:0]`, the routing mask (R82). -/
def State.filt (s : State) : BitVec 4 := (s.reg 23).extractLsb' 0 4

/-- `vol = reg[24][3:0]` (R83). -/
def State.vol (s : State) : BitVec 4 := (s.reg 24).extractLsb' 0 4

/-- `LP = reg[24][4]` (R83). -/
def State.lpOn (s : State) : Bool := (s.reg 24)[4]

/-- `BP = reg[24][5]` (R83). -/
def State.bpOn (s : State) : Bool := (s.reg 24)[5]

/-- `HP = reg[24][6]` (R83). -/
def State.hpOn (s : State) : Bool := (s.reg 24)[6]

/-- `OFF3 = reg[24][7]` (R83). -/
def State.off3 (s : State) : Bool := (s.reg 24)[7]

/-- `src(v) = (v + 2) mod 3`, the source voice of sync and of ring modulation (spec/42_oscillator.md R163). -/
def src (v : Fin 3) : Fin 3 := v + 2

/-! ## Little-endian fields -/

/-- The `n` bytes of x, the least significant first. -/
def leBytes {w : Nat} (n : Nat) (x : BitVec w) : List Byte :=
  (List.range n).map fun k => x.extractLsb' (8 * k) 8

/-- Byte `off` of a blob. -/
def byteAt (blob : List Byte) (off : Nat) : Byte := blob.getD off 0#8

/-- The u16 at `off`. -/
def u16At (blob : List Byte) (off : Nat) : BitVec 16 := byteAt blob (off + 1) ++ byteAt blob off

/-- The u24 at `off`. -/
def u24At (blob : List Byte) (off : Nat) : BitVec 24 :=
  byteAt blob (off + 2) ++ byteAt blob (off + 1) ++ byteAt blob off

/-- The 32 bits at `off`. -/
def u32At (blob : List Byte) (off : Nat) : BitVec 32 :=
  byteAt blob (off + 3) ++ byteAt blob (off + 2) ++ byteAt blob (off + 1) ++ byteAt blob off

end Sys2Proof.Machine
end

