-- ==== Sys2Proof/Machine/Flags.lean ====
section
/-! DEFINITION. Sys2Proof/Machine/Flags.lean: the block has no condition codes, status flags or predicates
(spec/10_state.md R41). The only status is a command's result, and the code of a refusal. -/

namespace Sys2Proof.Machine

open Sys2Proof

/-- The state with the result of the command just done. -/
def State.withResult (r : Result) (s : State) : State := { s with result := r }

/-- The code of a refusal (spec/60_exceptions.md R303); the model's own reasons have none. -/
def Refusal.code : Refusal → Option Nat
  | .notAlive => some 1
  | .reservedEncoding => some 2
  | .addressOutOfRange => some 3
  | .badCount => some 4
  | .badInterleave => some 5
  | .bufferTooSmall => some 6
  | .badBits => some 7
  | .badSample => some 8
  | .badModel => some 9
  | .badSnapshot => some 10
  | .badSampleFreq => some 11
  | _ => none

end Sys2Proof.Machine
end

