-- ==== Sys2Proof/Machine/Ops.lean ====
section
/-! DEFINITION. Sys2Proof/Machine/Ops.lean: the operations that the meanings share: taking the host's next command,
the `alive` check, refusing, one register cell, one voice, the sampler ring, the caller's buffer, and the common parts
of WRITE and READ.

The block takes no exception and returns from none (spec/60_exceptions.md R305, R306): it has no saved state, no handler
and no vector. Its only outcome besides *done* is a refusal, which ends the run with no next state (R303). -/

namespace Sys2Proof.Machine

open Sys2Proof

/-- The outcome of a command. -/
abbrev Outcome := Host.Outcome State Fault Refusal

/-! ## Commands -/

/-- The configuration arguments that the record beside a command gives (spec/40_orchestrator.md R100); without them the
defaults. Assumption 9. -/
def createArgsOf : Operands → Config.CreateArgs
  | .config args => args
  | _ => Config.CreateArgs.default

/-- The host's next command, and the state with it taken from the stream (spec/10_state.md R20) and the configuration
arguments beside it latched (spec/40_orchestrator.md R100). -/
def State.fetch (s : State) : Option (Command × State) :=
  match s.cmds with
  | [] => none
  | c :: rest => some (c, { s with cmds := rest, createArgs := createArgsOf c.operands })

/-- Every command but CREATE first checks `alive` (spec/60_exceptions.md R303, code 1). -/
def whenAlive (s : State) (k : Outcome) : Outcome :=
  if s.alive then k else .refused .notAlive

/-- The command is *done*: the next state with the command's result (spec/00_scope.md R9). -/
def done (r : Result) (s : State) : Outcome := .next (s.withResult r)

/-- `raise Refuse(reason)` when the check fails (spec/00_scope.md R12). -/
def require (ok : Bool) (reason : Refusal) (k : Outcome) : Outcome :=
  if ok then k else .refused reason

/-- The refusal of a command that does not decode. -/
def decodeRefusal : DecodeError → Refusal
  | .reservedEncoding => .reservedEncoding
  | .operandShape => .badOperandRecord

/-- A command that does not decode: `NotAlive` has the lower code (spec/60_exceptions.md R304). -/
def refuseUndecoded (e : DecodeError) (s : State) : Outcome :=
  whenAlive s (.refused (decodeRefusal e))

/-- The command stored where the step takes its next one from: at the head of the host's stream. -/
def State.pushCommand (c : Command) (s : State) : State := { s with cmds := c :: s.cmds }

/-! ## Registers and voices -/

/-- `reg[a] <- d`. -/
def State.withReg (a : Fin 29) (d : Byte) (s : State) : State := { s with regs := s.regs.set a d }

/-- Voice v replaced. -/
def State.withVoice (v : Fin 3) (x : Voice) (s : State) : State := { s with voices := s.voices.set v x }

/-- All three voices replaced, each by its index. -/
def State.withVoices (f : Fin 3 → Voice) (s : State) : State := { s with voices := Voices.ofFn f }

/-! ## The sampler ring -/

/-- `ring[i]`: an index without a pair holds 0. -/
def ringGet : Ring → Nat → Sample
  | [], _ => 0#16
  | (j, w) :: r, i => if i = j then w else if i < j then 0#16 else ringGet r i

/-- `ring[i] <- v`, keeping the canonical form: a sample 0 is not listed. -/
def ringSet : Ring → Nat → Sample → Ring
  | [], i, v => if v = 0#16 then [] else [(i, v)]
  | (j, w) :: r, i, v =>
    if i = j then (if v = 0#16 then r else (j, v) :: r)
    else if i < j then (if v = 0#16 then (j, w) :: r else (i, v) :: (j, w) :: r)
    else (j, w) :: ringSet r i v

/-- The indexes rise strictly from `lo` on, stay below `RINGSIZE`, and no sample is 0. -/
def ringWfFrom (lo : Nat) : Ring → Bool
  | [] => true
  | (j, w) :: r =>
    decide (lo ≤ j) && decide (j < Config.ringSize) && decide (w ≠ 0#16) && ringWfFrom (j + 1) r

/-- The ring is in canonical form. -/
def ringWf (r : Ring) : Bool := ringWfFrom 0 r

/-! ## The caller's sample buffer -/

/-- `MemWrite(buf, i, v)` on the caller's buffer (spec/00_scope.md R12; spec/20_memory.md R55). -/
def State.memWrite (i : Nat) (v : Sample) (s : State) : State :=
  { s with callerBuf := s.callerBuf.set i v }

/-! ## WRITE and READ -/

/-- `WRITE(A, D)`: the byte is stored, then the effect of the address, given the old byte and the new
(spec/40_orchestrator.md R103). -/
def busWrite (a : Nat) (effect : Byte → Byte → State → State) (d : Byte) (s : State) : Outcome :=
  whenAlive s <|
    if h : a < 29 then
      let old := s.reg ⟨a, h⟩
      done .none (effect old d (s.withReg ⟨a, h⟩ d))
    else .refused .addressOutOfRange

/-- The empty effect (spec/40_orchestrator.md R104 to R107, R109 to R115). -/
def noEffect (_old _new : Byte) (s : State) : State := s

/-- `READ(A)`: the value the rule of the address gives, from the state as it is; no state of the block changes
(spec/40_orchestrator.md R116). -/
def busRead (a : Nat) (value : Fin 29 → State → Byte) (s : State) : Outcome :=
  whenAlive s <|
    if h : a < 29 then done (.byte (value ⟨a, h⟩ s)) s
    else .refused .addressOutOfRange

/-- `RdStored`: the stored byte (spec/40_orchestrator.md R117). -/
def storedValue (a : Fin 29) (s : State) : Byte := s.reg a

end Sys2Proof.Machine
end

