-- ==== Sys2Proof/Machine/ExtFilter.lean ====
section
/-! DEFINITION. Sys2Proof/Machine/ExtFilter.lean: the external RC filter and the output scaling
(spec/45_external_filter.md). -/

namespace Sys2Proof.Machine

open Sys2Proof

/-- `hp_out`, the high-pass output (R241). -/
def extHighOut (mix : S32) (s : State) : S32 := s32 (mix.toInt - s.extHp.toInt)

/-- `ExtStep(mix)` with the filter enabled (R241). -/
def extEnabled (mix : S32) (s : State) : State :=
  let hpOut := (extHighOut mix s).toInt
  let lp := s32 (s.extLp.toInt + asr (asr Params.wLp 8 * (hpOut - s.extLp.toInt)) 12)
  { s with extHp := s32 (s.extHp.toInt + asr (Params.wHp * hpOut) 20), extLp := lp, extOut := lp }

/-- `ExtStep(mix)` with the filter disabled (R242). -/
def extDisabled (mix : S32) (s : State) : State :=
  { s with extHp := 0#32, extLp := 0#32, extOut := mix }

/-- `ExtStep(mix)`, stage 5 of the cycle. -/
def extStep (mix : S32) (s : State) : State := if s.extEn then extEnabled mix s else extDisabled mix s

/-- `OutScale(bits)` of an output value, for bits in [1, 19] (R243). -/
def outScaleOf (bits : Nat) (out : S32) : Int :=
  let d : Int := (Params.outBase / 2 ^ bits : Nat)
  let half : Int := 2 ^ (bits - 1)
  clamp (Int.tdiv out.toInt d) (-half) (half - 1)

/-- `OutScale(bits)` (R243). -/
def outScale (bits : Nat) (s : State) : Int := outScaleOf bits s.extOut

/-- `OutScale(16)` as an s16: the sample that the sampler takes (R244). -/
def outSample (s : State) : Sample := s16 (outScale Params.defaultBits s)

end Sys2Proof.Machine
end

