-- ==== Sys2Proof/Machine/AudioPort.lean ====
section
/-! DEFINITION. Sys2Proof/Machine/AudioPort.lean: INPUT, OUTPUT and OUTPUT_BITS (spec/40_orchestrator.md R125 to R127). -/

namespace Sys2Proof.Machine

open Sys2Proof

/-- `INPUT` (R125). -/
def execInput (sample : Int) (s : State) : Outcome :=
  whenAlive s <|
    require (decide (-32768 ≤ sample) && decide (sample ≤ 32767)) .badSample <|
    done .none { s with extIn := s16 sample }

/-- `OUTPUT` (R126). -/
def execOutput (s : State) : Outcome :=
  whenAlive s (done (.sample (outScale Params.defaultBits s)) s)

/-- `OUTPUT_BITS` (R127). -/
def execOutputBits (bits : Int) (s : State) : Outcome :=
  whenAlive s <|
    require (decide (1 ≤ bits) && decide (bits ≤ 19)) .badBits <|
    done (.sample (outScale bits.toNat s)) s

end Sys2Proof.Machine
end

