-- ==== Sys2Proof/Machine/Envelope.lean ====
section
/-! DEFINITION. Sys2Proof/Machine/Envelope.lean: the ADSR envelope generator (spec/43_envelope.md). -/

namespace Sys2Proof.Machine

open Sys2Proof

/-! ## Gate edges -/

/-- `GateEdge(v, g_old, g_new)` (R191 to R193): a rising edge starts Attack and, under `GATE_RESETS_COUNTER`, clears the
rate counter; a falling edge starts Release. -/
def gateEdge (resets : Bool) (old new : Bool) (x : Voice) : Voice :=
  match old, new with
  | false, true => { x with phase := .attack, rc := if resets then 0#15 else x.rc }
  | true, false => { x with phase := .release }
  | _, _ => x

/-! ## Timing -/

/-- `RATE_PERIOD[i]`. -/
def ratePeriodOf (i : BitVec 4) : Nat := Params.ratePeriodTable[i.toNat]

/-- `RatePeriod(v)`: the period of the current phase, read from the register (R194). -/
def ratePeriod (s : State) (v : Fin 3) : Nat :=
  match (s.voice v).phase with
  | .attack => ratePeriodOf (s.attack v)
  | .decayOrSustain => ratePeriodOf (s.decay v)
  | .release => ratePeriodOf (s.release v)

/-- The rate counter one cycle on; the 15-bit wrap skips 0 (R195). -/
def rcNext (rc : BitVec 15) : Nat := if rc.toNat + 1 = 2 ^ 15 then 1 else rc.toNat + 1

/-! ## Level steps -/

/-- `SustainLevel(v)` = sustain × 0x11 (R198). -/
def sustainLevel (s : State) (v : Fin 3) : Nat := (s.sustain v).toNat * Params.sustainScale

/-- `AttackEvent(v)` (R196). -/
def attackEvent (x : Voice) : Voice :=
  let level := if x.level.toNat < 255 then x.level + 1#8 else x.level
  { x with exp := 0#5, level := level, phase := if level = 255#8 then .decayOrSustain else x.phase }

/-- One event toward a floor: the level steps down on every `ExpDiv(level)`-th event while it is above the floor. The
common form of R198 and R199. -/
def fallEvent (floor : Nat) (x : Voice) : Voice :=
  if Params.expDiv x.level.toNat ≤ x.exp.toNat + 1 then
    { x with exp := 0#5, level := if floor < x.level.toNat then x.level - 1#8 else x.level }
  else { x with exp := x.exp + 1#5 }

/-- `DecayEvent(v)` (R198). -/
def decayEvent (sustain : Nat) (x : Voice) : Voice := fallEvent sustain x

/-- `ReleaseEvent(v)` (R199). -/
def releaseEvent (x : Voice) : Voice := fallEvent 0 x

/-- The rate event of the current phase (R195). -/
def rateEvent (sustain : Nat) (x : Voice) : Voice :=
  match x.phase with
  | .attack => attackEvent x
  | .decayOrSustain => decayEvent sustain x
  | .release => releaseEvent x

/-- The voice after `EnvStep(v)`, stage 2 of the cycle (R195). -/
def envStep (s : State) (v : Fin 3) : Voice :=
  let x := s.voice v
  let r := rcNext x.rc
  if r = ratePeriod s v then rateEvent (sustainLevel s v) { x with rc := 0#15 }
  else { x with rc := BitVec.ofNat 15 r }

/-- Stage 2 for the three voices. -/
def envStage (s : State) : State := s.withVoices (envStep s)

end Sys2Proof.Machine
end

