-- ==== Sys2Proof/Machine/Oscillator.lean ====
section
/-! DEFINITION. Sys2Proof/Machine/Oscillator.lean: the phase accumulator, the waveforms, hard sync and the noise
register (spec/42_oscillator.md). -/

namespace Sys2Proof.Machine

open Sys2Proof Sys2Proof.Config

/-! ## Noise register -/

/-- `LfsrNext` (R173, R174). -/
def lfsrNext (m : NoiseModel) (r : BitVec 23) : BitVec 23 :=
  match m with
  | .doc12 => (r.extractLsb' 0 11 ++ BitVec.ofBool (r[11] ^^ r[5] ^^ r[3] ^^ r[0])).setWidth 23
  | .resid23 => r.extractLsb' 0 22 ++ BitVec.ofBool (r[22] ^^ r[17])

/-- `NoiseClock(v, old, new)`: one shift when accumulator bit 19 goes from 0 to 1 in the add (R172). -/
def noiseClock (m : NoiseModel) (r : BitVec 23) (old new : BitVec 24) : BitVec 23 :=
  if !old.getLsbD Params.noiseClockBit && new.getLsbD Params.noiseClockBit then lfsrNext m r else r

/-- `NoiseOut(r)`: the 8 tapped bits (R168). -/
def noiseOut (m : NoiseModel) (r : BitVec 23) : Byte :=
  match m with
  | .doc12 => r.extractLsb' 4 8
  | .resid23 =>
    BitVec.ofBool r[22] ++ BitVec.ofBool r[20] ++ BitVec.ofBool r[16] ++ BitVec.ofBool r[13] ++
      BitVec.ofBool r[11] ++ BitVec.ofBool r[7] ++ BitVec.ofBool r[4] ++ BitVec.ofBool r[2]

/-! ## Phase accumulator -/

/-- `TestHold(v)`: the accumulator at 0, the noise register at its seed (R161). -/
def testHold (m : NoiseModel) (x : Voice) : Voice :=
  { x with acc := 0#24, lfsr := Params.noiseSeed m }

/-- The exact sum of the add of stage 1 (R160). -/
def oscSum (s : State) (v : Fin 3) : Nat := (s.voice v).acc.toNat + (s.freq v).toNat

/-- `SyncEdge(old, new, sum)` (R171). -/
def syncEdge (e : SyncEdge) (old new : BitVec 24) (sum : Nat) : Bool :=
  match e with
  | .wrap => decide (2 ^ 24 ≤ sum)
  | .msbRise => !old[23] && new[23]

/-- The voice after `OscAdvance(v)`, stage 1 of the cycle (R160). -/
def oscAdvance (s : State) (v : Fin 3) : Voice :=
  if s.test v then testHold s.variant.noiseModel (s.voice v)
  else
    let old := (s.voice v).acc
    let new := BitVec.ofNat 24 (oscSum s v)
    { s.voice v with acc := new, lfsr := noiseClock s.variant.noiseModel (s.voice v).lfsr old new }

/-- The sync trigger that `OscAdvance(v)` returns (R160, R171). -/
def oscTrig (s : State) (v : Fin 3) : Bool :=
  if s.test v then false
  else syncEdge s.variant.syncEdge (s.voice v).acc (BitVec.ofNat 24 (oscSum s v)) (oscSum s v)

/-- Stage 1 for the three voices, which read no state of one another (R140). -/
def oscStage (s : State) : State := s.withVoices (oscAdvance s)

/-! ## Hard sync -/

/-- Voice v after `SyncApply(trig)` (R171). -/
def syncVoice (trig : Fin 3 → Bool) (s : State) (v : Fin 3) : Voice :=
  if s.sync v && trig (src v) && !s.test v then { s.voice v with acc := 0#24 } else s.voice v

/-- `SyncApply(trig)`, stage 3, on the three voices at once (R171). -/
def syncApply (trig : Fin 3 → Bool) (s : State) : State := s.withVoices (syncVoice trig s)

/-! ## Waveforms -/

/-- `Tri(v)`: the accumulator folded by its bit 23, bits 22:11 (R164); under `TRI_MSB_XOR` ring modulation inverts the
fold bit by the source voice's bit 23 (R167). -/
def tri (s : State) (v : Fin 3) : BitVec 12 :=
  let acc := (s.voice v).acc
  let msb :=
    if decide (s.variant.ringMode = .triMsbXor) && s.ringBit v then acc[23] ^^ (s.voice (src v)).acc[23]
    else acc[23]
  (if msb then ~~~acc else acc).extractLsb' 11 12

/-- `Saw(v)`: bits 23:12 of the accumulator (R165). -/
def saw (s : State) (v : Fin 3) : BitVec 12 := (s.voice v).acc.extractLsb' 12 12

/-- `Pulse(v)`: the comparator against the pulse width; under `PULSE_SIGN` ring modulation gives it the source voice's
triangle (R166). -/
def pulse (s : State) (v : Fin 3) : BitVec 12 :=
  let x := if decide (s.variant.ringMode = .pulseSign) && s.ringBit v then tri s (src v) else saw s v
  if (s.pw v).toNat ≤ x.toNat then 0xFFF#12 else 0x000#12

/-- `Noise(v)`: the 8 bits in bits 11:4 (R168). -/
def noise (s : State) (v : Fin 3) : BitVec 12 := noiseOut s.variant.noiseModel (s.voice v).lfsr ++ 0#4

/-- `Wave(v)`: the bitwise AND of the selected waveforms; 0 with none selected (R169). -/
def wave (s : State) (v : Fin 3) : BitVec 12 :=
  let sel := s.sel v
  if sel = 0#4 then 0#12
  else
    (if sel[0] then tri s v else 0xFFF#12) &&& (if sel[1] then saw s v else 0xFFF#12) &&&
      (if sel[2] then pulse s v else 0xFFF#12) &&& (if sel[3] then noise s v else 0xFFF#12)

end Sys2Proof.Machine
end

