-- ==== Sys2Proof/Machine/Filter.lean ====
section
/-! DEFINITION. Sys2Proof/Machine/Filter.lean: voice outputs, routing, the state-variable filter and the mixer
(spec/44_filter.md). Products and sums are exact; only stored results are reduced to s32 (spec/00_scope.md R11). -/

namespace Sys2Proof.Machine

open Sys2Proof

/-- `VoiceOut(v)` (R220). -/
def voiceOut (s : State) (v : Fin 3) : Int :=
  ((wave s v).toNat - Params.waveZero) * (s.voice v).level.toNat

/-- A voice's scaled output (R221). -/
def voiceIn (s : State) (v : Fin 3) : Int := asr (voiceOut s v) Params.voiceShift

/-- The external input, scaled (R221). -/
def externalIn (s : State) : Int := asr (shl s.extIn.toInt Params.extInShift) Params.voiceShift

/-- `in[k]`, the four filter inputs (R221), voice 3 silenced when it is off and not routed (R222). -/
def filterIn (s : State) (k : Fin 4) : Int :=
  match k with
  | 0 => voiceIn s 0
  | 1 => voiceIn s 1
  | 2 => if s.off3 && !s.filt[2] then 0 else voiceIn s 2
  | 3 => externalIn s

/-- The sum of the inputs that `route` takes. -/
def sumInputs (route : Fin 4 → Bool) (s : State) : Int :=
  (if route 0 then filterIn s 0 else 0) + (if route 1 then filterIn s 1 else 0) +
    (if route 2 then filterIn s 2 else 0) + (if route 3 then filterIn s 3 else 0)

/-- Input k is routed through the filter (R223). -/
def routed (s : State) (k : Fin 4) : Bool := s.filt[k]

/-- `Vi`, the filtered sum (R223). -/
def filteredSum (s : State) : Int := sumInputs (routed s) s

/-- `Vnf`, the dry sum (R223). -/
def drySum (s : State) : Int := sumInputs (fun k => !routed s k) s

/-- `W0_TABLE[model][fc]`, from the tables of the instance (R225). The entries of tables that CREATE did not write out are
free. Assumption 3. -/
def w0Entry (tables : Config.CutoffTables) (model : ChipModel) (fc : BitVec 11) : Nat :=
  match tables, model with
  | .unmeasured, model => Config.w0Table model fc
  | .given a _, .A => a[fc.toNat]'fc.isLt
  | .given _ b, .B => b[fc.toNat]'fc.isLt

/-- `W(model, fc)` (R225). -/
def cutoffCoeff (s : State) : Nat := min (w0Entry s.tables s.model s.fc) Params.w0Max

/-- `Q1024[res]` (R226). -/
def q1024 (s : State) : Int := Params.q1024Table[s.res.toNat]

/-- `hp`, from the old integrators (R224). -/
def highPass (s : State) : S32 :=
  s32 (filteredSum s - s.lp.toInt - asr (s.bp.toInt * q1024 s) 10)

/-- The band-pass integrator after the update with coefficient w (R224). -/
def bandPass (w : Nat) (s : State) : S32 := s32 (s.bp.toInt + asr (w * (highPass s).toInt) 20)

/-- The low-pass integrator after the update with coefficient w, from the old band-pass (R224). -/
def lowPass (w : Nat) (s : State) : S32 := s32 (s.lp.toInt + asr (w * s.bp.toInt) 20)

/-- `Vf`, the sum of the selected taps after the update (R227). -/
def tapSum (w : Nat) (s : State) : Int :=
  (if s.lpOn then (lowPass w s).toInt else 0) + (if s.bpOn then (bandPass w s).toInt else 0) +
    (if s.hpOn then (highPass s).toInt else 0)

/-- The mixer: the sum scaled by the master volume (R228). -/
def mixer (s : State) (sum : Int) : S32 := s32 (sum * s.vol.toNat)

/-- `FilterStep()` with the filter enabled, for a cutoff coefficient w (R224): the state, and `mix`. -/
def filterEnabled (w : Nat) (s : State) : State × S32 :=
  ({ s with bp := bandPass w s, lp := lowPass w s }, mixer s (drySum s + tapSum w s))

/-- `FilterStep()` with the filter disabled (R229): the state, and `mix`. -/
def filterDisabled (s : State) : State × S32 :=
  ({ s with bp := 0#32, lp := 0#32 }, mixer s (sumInputs (fun _ => true) s))

/-- `FilterStep()`, stage 4 of the cycle (R224, R229). -/
def filterStep (s : State) : State × S32 :=
  if s.filterEn then filterEnabled (cutoffCoeff s) s else filterDisabled s

end Sys2Proof.Machine
end

