-- ==== Sys2Proof/Machine/Cycle.lean ====
section
/-! DEFINITION. Sys2Proof/Machine/Cycle.lean: the cycle step, and clocking by a number of cycles
(spec/41_clocking.md R140 to R142). -/

namespace Sys2Proof.Machine

open Sys2Proof

/-- `RingPush()`, stage 6 of every cycle (spec/46_sampler.md R262). -/
def ringPush (s : State) : State :=
  { s with ring := ringSet s.ring s.ri.toNat (outSample s), ri := s.ri + 1#14 }

/-- Stages 1 to 3: oscillators, envelopes, hard sync with the triggers of stage 1 (R141). -/
def voiceStages (s : State) : State := syncApply (oscTrig s) (envStage (oscStage s))

/-- Stages 4 to 6: filter, external filter, ring push (R141). -/
def outputStages (s : State) : State :=
  let f := filterStep s
  ringPush (extStep f.2 f.1)

/-- `CycleStep()` (R141). -/
def cycleStep (s : State) : State := outputStages (voiceStages s)

/-- `Clock(k)`: `CycleStep()` run k times (R142). -/
def clock : Nat → State → State
  | 0, s => s
  | k + 1, s => clock k (cycleStep s)

end Sys2Proof.Machine
end

