-- ==== Sys2Proof/Machine/Fir.lean ====
section
/-! DEFINITION. Sys2Proof/Machine/Fir.lean: `BuildFir`, the windowed-sinc kernel of RESAMPLE (spec/46_sampler.md R255),
in binary64 as the rule says. Lean's binary64 sum, product, quotient and square root are the IEEE ones; `log10`, `log2`,
`sin`, `ceil` and the conversion to an s16 are constants without a body, so in every proof the lengths and the taps are
free, as spec/93_implementation_defined.md I21 asks. Assumption 8. Where the evaluation is not finite the spec gives no
size and no tap: they are free there too. Assumption 14. -/

namespace Sys2Proof.Machine.Fir

open Sys2Proof

/-- π in binary64. -/
def pi : Float := 3.14159265358979323846

/-- `trunc(x)` where it is a size, from 0 to 2^64 − 1. The spec gives no value for the other x (a NaN or an infinity, which
the exact checks of R253 let through for frequencies beyond the range of binary64, or a negative size): there it is the
free value `Config.firTrunc x`. DESIGN CHOICE. Assumption 14. -/
def truncNat (x : Float) : Nat :=
  if -1 < x ∧ x < 18446744073709551616 then x.toUInt64.toNat else Config.firTrunc x

/-- The series of I0, term by term, until a term is below 1e−6 of the sum; `fuel` bounds the number of terms. -/
def i0Terms (x : Float) : (fuel : Nat) → (s u k : Float) → Float
  | 0, s, _, _ => s
  | fuel + 1, s, u, k =>
    let t := x / 2 / k
    let u' := u * (t * t)
    let s' := s + u'
    if u' < 1e-6 * s' then s' else i0Terms x fuel s' u' (k + 1)

/-- `I0(x)`. -/
def i0 (x : Float) : Float := i0Terms x 1000 1 1 1

/-- `A`, the stop-band attenuation. -/
def attenuation : Float := -20 * Float.log10 (1 / 65536)

/-- `beta`. -/
def beta : Float := 0.1102 * (attenuation - 8.7)

/-- `dw`, the transition width. -/
def transition (fs pass : Float) : Float := (1 - 2 * pass / fs) * pi

/-- `wc`, the cutoff. -/
def cutoff (fs pass : Float) : Float := (2 * pass / fs + 1) * pi / 2

/-- `N`, rounded up to even. -/
def order (fs pass : Float) : Nat :=
  let n := truncNat ((attenuation - 7.95) / (2.285 * transition fs pass) + 0.5)
  n + n % 2

/-- `fir_N`, odd. -/
def firLength (fc fs pass : Float) : Nat := (truncNat (Float.ofNat (order fs pass) * (fc / fs)) + 1) ||| 1

/-- `fir_RES`, a power of two. -/
def firRows (fc fs : Float) : Nat :=
  2 ^ truncNat (Float.ceil (Float.log2 (Float.ofNat Params.firRes / (fc / fs))))

/-- The tap of row i at offset j, −half ≤ j ≤ half. The conversion to an s16 has no body: the tap is free, also where the
value is a NaN, an infinity or outside s16, for which the spec gives no tap. DESIGN CHOICE. Assumptions 8 and 14. -/
def tap (fc fs pass scale : Float) (rows half i : Nat) (j : Int) : Sample :=
  let fcps := fc / fs
  let wc := cutoff fs pass
  let jx := Float.ofInt j - Float.ofNat i / Float.ofNat rows
  let wt := wc * jx / fcps
  let t := jx / Float.ofNat half
  let k := if t.abs ≤ 1 then i0 (beta * Float.sqrt (1 - t * t)) / i0 beta else 0
  let sinc := if 1e-6 ≤ wt.abs then Float.sin wt / wt else 1
  let val := Float.ofNat (2 ^ Params.firShift) * scale * (fs / fc) * wc / pi * sinc * k
  (val + 0.5).toInt16.toBitVec

/-- `BuildFir(fc, fs, pass, scale)`: row i, entry m holds the tap at offset m − half. -/
def build (fc fs pass scale : Rat) : FirSet :=
  let fc := fc.toFloat
  let fs := fs.toFloat
  let pass := pass.toFloat
  let scale := scale.toFloat
  let n := firLength fc fs pass
  let rows := firRows fc fs
  let half := n / 2
  { n := n
    res := rows
    taps := (List.range rows).flatMap fun (i : Nat) =>
      (List.range n).map fun (m : Nat) => tap fc fs pass scale rows half i ((m : Int) - half) }

end Sys2Proof.Machine.Fir
end

