-- ==== Sys2Proof/Machine/Sampler.lean ====
section
/-! DEFINITION. Sys2Proof/Machine/Sampler.lean: the sampler's ratio, validation and commit, and the three sampling loops
(spec/46_sampler.md). -/

namespace Sys2Proof.Machine

open Sys2Proof

/-! ## Configuration -/

/-- `Cps(fc, fs) = floor(fc / fs × 2^16 + 1/2)`, exact (R251). -/
def cpsOf (fc fs : Rat) : Int := (fc / fs * 2 ^ Params.fixpShift + 1 / 2).floor

/-- The ratio is in [`CPS_MIN`, `CPS_MAX`] (R251). -/
def cpsInRange (c : Int) : Bool := decide (Params.cpsMin ≤ c) && decide (c ≤ Params.cpsMax)

/-- The effective pass frequency (R253 item 4). -/
def effectivePass (fs pass : Rat) : Rat :=
  if pass < 0 then (if 9 / 10 ≤ 2 * 20000 / fs then 9 / 10 * fs / 2 else 20000) else pass

/-- The checks of RESAMPLE alone (R253 item 4). -/
def resampleValid (fc fs pass scale : Rat) : Bool :=
  decide (Params.firN * fc / fs < Config.ringSize) &&
    (decide (pass < 0) || decide (pass ≤ 9 / 10 * fs / 2)) &&
    (decide (9 / 10 ≤ scale) && decide (scale ≤ 1))

/-- `Valid(fc, method, fs, pass, scale)` (R253). -/
def samplingValid (fc : Rat) (method : Int) (fs pass scale : Rat) : Bool :=
  (decide (0 < fc) && decide (0 < fs)) && (decide (0 ≤ method) && decide (method ≤ 2)) &&
    cpsInRange (cpsOf fc fs) && (decide (method ≠ 2) || resampleValid fc fs pass scale)

/-- The method of a valid tag, with the FIR set that a commit builds for RESAMPLE (R254, R255). -/
def methodOf (fc : Rat) (method : Int) (fs pass scale : Rat) : SampleMethod :=
  if method = 0 then .decimate
  else if method = 1 then .interpolate
  else .resample (Fir.build fc fs (effectivePass fs pass) scale)

/-- `Commit(fc, method, fs, pass, scale)` (R254). -/
def commitSampling (fc : Rat) (method : Int) (fs pass scale : Rat) (s : State) : State :=
  { s with
    clockFreq := fc
    method := methodOf fc method fs pass scale
    sampleFreq := fs
    passFreq := if method = 2 then effectivePass fs pass else pass
    filterScale := scale
    cps := (cpsOf fc fs).toNat
    so := 0#32
    sprev := 0#16
    ring := []
    ri := 0#14 }

/-! ## The loops -/

/-- The offset that DECIMATE adds to round to the nearest cycle (R257). -/
def soOffset : SampleMethod → Int
  | .decimate => 2 ^ 15
  | _ => 0

/-- `nso` (R257 to R259). -/
def nextSo (m : SampleMethod) (s : State) : Int := s.so.toInt + s.cps + soOffset m

/-- `dts`, the cycles to the next sample, at least one (R257 to R259). -/
def cyclesToSample (m : SampleMethod) (s : State) : Nat := (max (asr (nextSo m s) 16) 1).toNat

/-- `so` after a sample: the fraction, less the offset of DECIMATE (R257 to R259). -/
def soAfter (m : SampleMethod) (nso : Int) : S32 := s32 (nso % 2 ^ 16 - soOffset m)

/-- Entry `i mod RINGSIZE` of the ring. -/
def ringAt (s : State) (i : Int) : Sample := ringGet s.ring (i % Config.ringSize).toNat

/-- `Σ_j ring[(base + j) mod RINGSIZE] × fir[row × fir_N + j]`, j from 0 to fir_N − 1 (R259). -/
def firSum (fir : FirSet) (s : State) (base : Int) (row : Nat) : Int :=
  let window := (List.range fir.n).map fun (j : Nat) => (ringAt s (base + j)).toInt
  let taps := ((fir.taps.drop (row * fir.n)).take fir.n).map fun t => t.toInt
  (List.zipWith (fun x y => x * y) window taps).sum

/-- The RESAMPLE sample from the ring at the position `so` (R259). -/
def resampleValue (fir : FirSet) (s : State) : Sample :=
  let pos : Int := s.so.toInt * fir.res
  let fo := (asr pos 16).toNat
  let rmd := pos % 2 ^ 16
  let base : Int := s.ri.toNat - fir.n
  let v1 := firSum fir s base fo
  let v2 := if fo + 1 = fir.res then firSum fir s (base - 1) 0 else firSum fir s base (fo + 1)
  s16 (clamp (asr (v1 + asr (rmd * (v2 - v1)) 16) Params.firShift) (-32768) 32767)

/-- The INTERPOLATE sample between `sprev` and the output of the last cycle at the position `so` (R258). -/
def interpolateValue (s : State) : Sample :=
  let now := (outSample s).toInt
  s16 (s.sprev.toInt + asr (s.so.toInt * (now - s.sprev.toInt)) 16)

/-- `Clock(k − 1); sprev <- OutScale(16); Clock(1)` (R258). -/
def clockKeepingPrev (k : Nat) (s : State) : State :=
  let t := clock (k - 1) s
  clock 1 { t with sprev := outSample t }

/-- The cycles of one sample and the move of `so`; then the sample, and the state it leaves (R257 to R259). -/
def produceSample (m : SampleMethod) (dts : Nat) (nso : Int) (s : State) : State × Sample :=
  match m with
  | .decimate =>
    let t := { clock dts s with so := soAfter m nso }
    (t, outSample t)
  | .interpolate =>
    let t := { clockKeepingPrev dts s with so := soAfter m nso }
    ({ t with sprev := outSample t }, interpolateValue t)
  | .resample fir =>
    let t := { clock dts s with so := soAfter m nso }
    (t, resampleValue fir t)

/-- The cycles of the tail, when the cycles run out before the next sample (R257 to R259). -/
def tailCycles (m : SampleMethod) (dt : Nat) (s : State) : State :=
  match m with
  | .interpolate => if 1 ≤ dt then clockKeepingPrev dt s else s
  | _ => clock dt s

/-- The tail: the remaining cycles run, and `so` moves back by them (R257 to R259, R261). -/
def runTail (m : SampleMethod) (dt : Nat) (s : State) : State :=
  let t := tailCycles m dt s
  { t with so := s32 (t.so.toInt - dt * 2 ^ 16) }

/-- What a sampling run leaves: the state, the samples written and the cycles remaining. -/
structure RunResult where
  state     : State
  written   : Nat
  remaining : Nat
  deriving DecidableEq, Repr

/-- `RunDecimate`, `RunInterpolate` and `RunResample` (R257 to R259): k samples are written and dt cycles remain. Every
sample takes at least one cycle, so `fuel` = dt is enough, and with no fuel left no cycle remains. -/
def runLoop (m : SampleMethod) (n il : Nat) : (fuel : Nat) → (k dt : Nat) → State → RunResult
  | 0, k, dt, s => { state := runTail m dt s, written := k, remaining := 0 }
  | fuel + 1, k, dt, s =>
    let dts := cyclesToSample m s
    if dt < dts then { state := runTail m dt s, written := k, remaining := 0 }
    else if n ≤ k then { state := s, written := k, remaining := dt }
    else
      let p := produceSample m dts (nextSo m s) s
      runLoop m n il fuel (k + 1) (dt - dts) (p.1.memWrite (k * il) p.2)

/-- The run of CLOCK_SAMPLES under the state's method (spec/41_clocking.md R145). -/
def runSamples (dt n il : Nat) (s : State) : RunResult := runLoop s.method n il dt 0 dt s

end Sys2Proof.Machine
end

