-- ==== Sys2Proof/Machine/Clocking.lean ====
section
/-! DEFINITION. Sys2Proof/Machine/Clocking.lean: CLOCK1, CLOCKN and CLOCK_SAMPLES (spec/41_clocking.md R143 to R145). -/

namespace Sys2Proof.Machine

open Sys2Proof

/-- A cycle count or a sample capacity in [0, 2^31 − 1]. -/
def countInRange (n : Int) : Bool := decide (0 ≤ n) && decide (n ≤ Params.countMax)

/-- An interleave in [1, 2^31 − 1]. -/
def interleaveInRange (il : Int) : Bool := decide (1 ≤ il) && decide (il ≤ Params.countMax)

/-- `CLOCK1` (R143). -/
def execClock1 (s : State) : Outcome := whenAlive s (done .none (clock 1 s))

/-- `CLOCKN` (R144). -/
def execClockN (n : Int) (s : State) : Outcome :=
  whenAlive s <| require (countInRange n) .badCount <| done .none (clock n.toNat s)

/-- The run of a CLOCK_SAMPLES whose operands passed the checks: its result is the pair of counts, and the caller's
buffer is written (R145). -/
def clockSamplesRun (dt : Nat) (buf : List Sample) (n il : Nat) (s : State) : Outcome :=
  let r := runSamples dt n il { s with callerBuf := buf }
  done (.counts r.written r.remaining) r.state

/-- `CLOCK_SAMPLES` (R145). -/
def execClockSamples (deltaT : Int) (buf : List Sample) (n interleave : Int) (s : State) : Outcome :=
  whenAlive s <|
    require (countInRange deltaT && countInRange n) .badCount <|
    require (interleaveInRange interleave) .badInterleave <|
    require (decide (n * interleave ≤ buf.length)) .bufferTooSmall <|
    clockSamplesRun deltaT.toNat buf n.toNat interleave.toNat s

end Sys2Proof.Machine
end

