-- ==== Sys2Proof/Machine/Lifecycle.lean ====
section
/-! DEFINITION. Sys2Proof/Machine/Lifecycle.lean: CREATE, RELEASE, RESET and the configuration latches
(spec/40_orchestrator.md R100 to R102, R122 to R124). -/

namespace Sys2Proof.Machine

open Sys2Proof

/-- `CREATE` (R100): the fresh instance of spec/10_state.md R39, with the configuration arguments given with it;
the host's commands and its sample buffer are not the instance's. It does not check `alive` (spec/60_exceptions.md R303).
Assumption 9. -/
def execCreate (s : State) : Outcome :=
  done .none { State.created s.createArgs with cmds := s.cmds, callerBuf := s.callerBuf }

/-- `RELEASE` (R101). -/
def execRelease (s : State) : Outcome := whenAlive s (done .none { s with alive := false })

/-- Every field at its "after RESET" value; the preserved ones as they are (spec/10_state.md R39). -/
def State.afterReset (s : State) : State :=
  { State.created { variant := s.variant, tables := s.tables } with
    cmds := s.cmds
    callerBuf := s.callerBuf
    createArgs := s.createArgs
    alive := s.alive
    model := s.model
    filterEn := s.filterEn
    extEn := s.extEn
    method := s.method
    clockFreq := s.clockFreq
    sampleFreq := s.sampleFreq
    passFreq := s.passFreq
    filterScale := s.filterScale
    cps := s.cps }

/-- `RESET` (R102). -/
def execReset (s : State) : Outcome := whenAlive s (done .none s.afterReset)

/-- The chip model of an operand: 0 is A, 1 is B; nothing else is a model (R122). -/
def modelOfOperand (m : Int) : Option ChipModel :=
  if m = 0 then some .A else if m = 1 then some .B else none

/-- `SET_CHIP_MODEL` (R122). -/
def execSetChipModel (model : Int) (s : State) : Outcome :=
  whenAlive s <|
    match modelOfOperand model with
    | none => .refused .badModel
    | some m => done .none { s with model := m }

/-- `ENABLE_FILTER` (R123). -/
def execEnableFilter (enable : Bool) (s : State) : Outcome :=
  whenAlive s (done .none { s with filterEn := enable })

/-- `ENABLE_EXT_FILTER` (R124). -/
def execEnableExtFilter (enable : Bool) (s : State) : Outcome :=
  whenAlive s (done .none { s with extEn := enable })

end Sys2Proof.Machine
end

