-- ==== Sys2Proof/Machine/RegRead.lean ====
section
/-! DEFINITION. Sys2Proof/Machine/RegRead.lean: the 29 register reads (spec/40_orchestrator.md R116 to R121). Addresses 0
to 24 give the stored byte; 25 to 28 give live values, never the stored one. -/

namespace Sys2Proof.Machine

open Sys2Proof

/-- POTX: the constant `POT_X` (R118). -/
def potXValue (_a : Fin 29) (_s : State) : Byte := Params.potX

/-- POTY: the constant `POT_Y` (R119). -/
def potYValue (_a : Fin 29) (_s : State) : Byte := Params.potY

/-- OSC3: bits 11:4 of voice 3's waveform (R120). -/
def osc3Value (_a : Fin 29) (s : State) : Byte := (wave s 2).extractLsb' 4 8

/-- ENV3: voice 3's envelope level (R121). -/
def env3Value (_a : Fin 29) (s : State) : Byte := (s.voice 2).level

/-- `RD_FREQLO1` (R117). -/
def execRdFreqLo1 (s : State) : Outcome := busRead 0 storedValue s

/-- `RD_FREQHI1` (R117). -/
def execRdFreqHi1 (s : State) : Outcome := busRead 1 storedValue s

/-- `RD_PWLO1` (R117). -/
def execRdPwLo1 (s : State) : Outcome := busRead 2 storedValue s

/-- `RD_PWHI1` (R117). -/
def execRdPwHi1 (s : State) : Outcome := busRead 3 storedValue s

/-- `RD_CTRL1` (R117). -/
def execRdCtrl1 (s : State) : Outcome := busRead 4 storedValue s

/-- `RD_AD1` (R117). -/
def execRdAd1 (s : State) : Outcome := busRead 5 storedValue s

/-- `RD_SR1` (R117). -/
def execRdSr1 (s : State) : Outcome := busRead 6 storedValue s

/-- `RD_FREQLO2` (R117). -/
def execRdFreqLo2 (s : State) : Outcome := busRead 7 storedValue s

/-- `RD_FREQHI2` (R117). -/
def execRdFreqHi2 (s : State) : Outcome := busRead 8 storedValue s

/-- `RD_PWLO2` (R117). -/
def execRdPwLo2 (s : State) : Outcome := busRead 9 storedValue s

/-- `RD_PWHI2` (R117). -/
def execRdPwHi2 (s : State) : Outcome := busRead 10 storedValue s

/-- `RD_CTRL2` (R117). -/
def execRdCtrl2 (s : State) : Outcome := busRead 11 storedValue s

/-- `RD_AD2` (R117). -/
def execRdAd2 (s : State) : Outcome := busRead 12 storedValue s

/-- `RD_SR2` (R117). -/
def execRdSr2 (s : State) : Outcome := busRead 13 storedValue s

/-- `RD_FREQLO3` (R117). -/
def execRdFreqLo3 (s : State) : Outcome := busRead 14 storedValue s

/-- `RD_FREQHI3` (R117). -/
def execRdFreqHi3 (s : State) : Outcome := busRead 15 storedValue s

/-- `RD_PWLO3` (R117). -/
def execRdPwLo3 (s : State) : Outcome := busRead 16 storedValue s

/-- `RD_PWHI3` (R117). -/
def execRdPwHi3 (s : State) : Outcome := busRead 17 storedValue s

/-- `RD_CTRL3` (R117). -/
def execRdCtrl3 (s : State) : Outcome := busRead 18 storedValue s

/-- `RD_AD3` (R117). -/
def execRdAd3 (s : State) : Outcome := busRead 19 storedValue s

/-- `RD_SR3` (R117). -/
def execRdSr3 (s : State) : Outcome := busRead 20 storedValue s

/-- `RD_FCLO` (R117). -/
def execRdFcLo (s : State) : Outcome := busRead 21 storedValue s

/-- `RD_FCHI` (R117). -/
def execRdFcHi (s : State) : Outcome := busRead 22 storedValue s

/-- `RD_RESFILT` (R117). -/
def execRdResFilt (s : State) : Outcome := busRead 23 storedValue s

/-- `RD_MODEVOL` (R117). -/
def execRdModeVol (s : State) : Outcome := busRead 24 storedValue s

/-- `RD_POTX` (R118). -/
def execRdPotX (s : State) : Outcome := busRead 25 potXValue s

/-- `RD_POTY` (R119). -/
def execRdPotY (s : State) : Outcome := busRead 26 potYValue s

/-- `RD_OSC3` (R120). -/
def execRdOsc3 (s : State) : Outcome := busRead 27 osc3Value s

/-- `RD_ENV3` (R121). -/
def execRdEnv3 (s : State) : Outcome := busRead 28 env3Value s

end Sys2Proof.Machine
end

