-- ==== Sys2Proof/Machine/RegWrite.lean ====
section
/-! DEFINITION. Sys2Proof/Machine/RegWrite.lean: the 29 register writes (spec/40_orchestrator.md R103 to R115). Each is
`WRITE(A, D)` with the effect of its address: empty, but for the three CONTROL registers. -/

namespace Sys2Proof.Machine

open Sys2Proof

/-- The effect of a CONTROL write: `TestHold(v)` when the new byte has TEST set, then the gate edge
(spec/40_orchestrator.md R108). -/
def ctrlEffect (v : Fin 3) (old new : Byte) (s : State) : State :=
  let held := if new[3] then testHold s.variant.noiseModel (s.voice v) else s.voice v
  s.withVoice v (gateEdge s.variant.gateResetsCounter old[0] new[0] held)

/-- `WR_FREQLO1` (R104). -/
def execWrFreqLo1 (d : Byte) (s : State) : Outcome := busWrite 0 noEffect d s

/-- `WR_FREQHI1` (R105). -/
def execWrFreqHi1 (d : Byte) (s : State) : Outcome := busWrite 1 noEffect d s

/-- `WR_PWLO1` (R106). -/
def execWrPwLo1 (d : Byte) (s : State) : Outcome := busWrite 2 noEffect d s

/-- `WR_PWHI1` (R107). -/
def execWrPwHi1 (d : Byte) (s : State) : Outcome := busWrite 3 noEffect d s

/-- `WR_CTRL1` (R108). -/
def execWrCtrl1 (d : Byte) (s : State) : Outcome := busWrite 4 (ctrlEffect 0) d s

/-- `WR_AD1` (R109). -/
def execWrAd1 (d : Byte) (s : State) : Outcome := busWrite 5 noEffect d s

/-- `WR_SR1` (R110). -/
def execWrSr1 (d : Byte) (s : State) : Outcome := busWrite 6 noEffect d s

/-- `WR_FREQLO2` (R104). -/
def execWrFreqLo2 (d : Byte) (s : State) : Outcome := busWrite 7 noEffect d s

/-- `WR_FREQHI2` (R105). -/
def execWrFreqHi2 (d : Byte) (s : State) : Outcome := busWrite 8 noEffect d s

/-- `WR_PWLO2` (R106). -/
def execWrPwLo2 (d : Byte) (s : State) : Outcome := busWrite 9 noEffect d s

/-- `WR_PWHI2` (R107). -/
def execWrPwHi2 (d : Byte) (s : State) : Outcome := busWrite 10 noEffect d s

/-- `WR_CTRL2` (R108). -/
def execWrCtrl2 (d : Byte) (s : State) : Outcome := busWrite 11 (ctrlEffect 1) d s

/-- `WR_AD2` (R109). -/
def execWrAd2 (d : Byte) (s : State) : Outcome := busWrite 12 noEffect d s

/-- `WR_SR2` (R110). -/
def execWrSr2 (d : Byte) (s : State) : Outcome := busWrite 13 noEffect d s

/-- `WR_FREQLO3` (R104). -/
def execWrFreqLo3 (d : Byte) (s : State) : Outcome := busWrite 14 noEffect d s

/-- `WR_FREQHI3` (R105). -/
def execWrFreqHi3 (d : Byte) (s : State) : Outcome := busWrite 15 noEffect d s

/-- `WR_PWLO3` (R106). -/
def execWrPwLo3 (d : Byte) (s : State) : Outcome := busWrite 16 noEffect d s

/-- `WR_PWHI3` (R107). -/
def execWrPwHi3 (d : Byte) (s : State) : Outcome := busWrite 17 noEffect d s

/-- `WR_CTRL3` (R108). -/
def execWrCtrl3 (d : Byte) (s : State) : Outcome := busWrite 18 (ctrlEffect 2) d s

/-- `WR_AD3` (R109). -/
def execWrAd3 (d : Byte) (s : State) : Outcome := busWrite 19 noEffect d s

/-- `WR_SR3` (R110). -/
def execWrSr3 (d : Byte) (s : State) : Outcome := busWrite 20 noEffect d s

/-- `WR_FCLO` (R111). -/
def execWrFcLo (d : Byte) (s : State) : Outcome := busWrite 21 noEffect d s

/-- `WR_FCHI` (R112). -/
def execWrFcHi (d : Byte) (s : State) : Outcome := busWrite 22 noEffect d s

/-- `WR_RESFILT` (R113). -/
def execWrResFilt (d : Byte) (s : State) : Outcome := busWrite 23 noEffect d s

/-- `WR_MODEVOL` (R114). -/
def execWrModeVol (d : Byte) (s : State) : Outcome := busWrite 24 noEffect d s

/-- `WR_POTX` (R115). -/
def execWrPotX (d : Byte) (s : State) : Outcome := busWrite 25 noEffect d s

/-- `WR_POTY` (R115). -/
def execWrPotY (d : Byte) (s : State) : Outcome := busWrite 26 noEffect d s

/-- `WR_OSC3` (R115). -/
def execWrOsc3 (d : Byte) (s : State) : Outcome := busWrite 27 noEffect d s

/-- `WR_ENV3` (R115). -/
def execWrEnv3 (d : Byte) (s : State) : Outcome := busWrite 28 noEffect d s

end Sys2Proof.Machine
end

