-- ==== Sys2Proof/Machine/SamplerConfig.lean ====
section
/-! DEFINITION. Sys2Proof/Machine/SamplerConfig.lean: SET_SAMPLING_PARAMETERS and ADJUST_SAMPLING_FREQUENCY
(spec/46_sampler.md R252, R256). -/

namespace Sys2Proof.Machine

open Sys2Proof

/-- `SET_SAMPLING_PARAMETERS` (R252): an invalid configuration is *done* with result false and changes nothing. -/
def execSetSamplingParameters (clockFreq : Rat) (method : Int) (sampleFreq passFreq filterScale : Rat) (s : State) :
    Outcome :=
  whenAlive s <|
    if samplingValid clockFreq method sampleFreq passFreq filterScale then
      done (.flag true) (commitSampling clockFreq method sampleFreq passFreq filterScale s)
    else done (.flag false) s

/-- The frequency is positive and its ratio to the clock is in range (R256). -/
def adjustOk (clockFreq sampleFreq : Rat) : Bool :=
  decide (0 < sampleFreq) && cpsInRange (cpsOf clockFreq sampleFreq)

/-- `ADJUST_SAMPLING_FREQUENCY` (R256): the ratio alone is computed anew. -/
def execAdjustSamplingFrequency (sampleFreq : Rat) (s : State) : Outcome :=
  whenAlive s <|
    require (adjustOk s.clockFreq sampleFreq) .badSampleFreq <|
    done .none { s with sampleFreq := sampleFreq, cps := (cpsOf s.clockFreq sampleFreq).toNat }

end Sys2Proof.Machine
end

