-- ==== Sys2Proof/Machine/Layout.lean ====
section
/-! DEFINITION. Sys2Proof/Machine/Layout.lean: the 112-byte snapshot, built and taken apart
(spec/47_snapshot.md R290 to R292). -/

namespace Sys2Proof.Machine

open Sys2Proof

/-- The phase byte. -/
def Phase.toByte : Phase → Byte
  | .attack => 0#8
  | .decayOrSustain => 1#8
  | .release => 2#8

/-- The phase of a byte; only bytes up to 2 are accepted (R292). -/
def Phase.ofByte (b : Byte) : Phase :=
  if b = 0#8 then .attack else if b = 1#8 then .decayOrSustain else .release

/-- `n` reserved bytes, written 0. -/
def reserved (n : Nat) : List Byte := List.replicate n 0#8

/-- The 16 bytes of one voice (R290). -/
def voiceBlock (x : Voice) : List Byte :=
  leBytes 3 x.acc ++ leBytes 3 x.lfsr ++ [x.level, x.phase.toByte] ++ leBytes 2 x.rc ++ leBytes 1 x.exp ++ reserved 5

/-- The blob of R290. -/
def snapshot (s : State) : List Byte :=
  s.regs.toList ++ reserved 3 ++ voiceBlock (s.voice 0) ++ voiceBlock (s.voice 1) ++ voiceBlock (s.voice 2) ++
    leBytes 4 s.bp ++ leBytes 4 s.lp ++ leBytes 4 s.extHp ++ leBytes 4 s.extLp ++ leBytes 4 s.extOut ++
    leBytes 2 s.extIn ++ leBytes 4 s.so ++ leBytes 2 s.sprev ++ reserved 4

/-- The offset of voice v's block: 32 + 16v. -/
def voiceOffset (v : Fin 3) : Nat := 32 + 16 * v.val

/-- The blob has the right length, and every phase byte is at most 2 (R292). -/
def snapshotOk (blob : List Byte) : Bool :=
  decide (blob.length = Config.snapshotBytes) &&
    (decide ((byteAt blob (voiceOffset 0 + 7)).toNat ≤ 2) && decide ((byteAt blob (voiceOffset 1 + 7)).toNat ≤ 2) &&
      decide ((byteAt blob (voiceOffset 2 + 7)).toNat ≤ 2))

/-- The low `NOISE_WIDTH` bits (R292: mod 2^`NOISE_WIDTH`). -/
def maskLfsr (m : Config.NoiseModel) (x : BitVec 24) : BitVec 23 :=
  BitVec.ofNat 23 (x.toNat % 2 ^ Params.noiseWidth m)

/-- Voice v taken from the blob; the upper bits of a masked field are dropped (R292). -/
def restoreVoice (m : Config.NoiseModel) (blob : List Byte) (v : Fin 3) : Voice :=
  let o := voiceOffset v
  { acc := u24At blob o
    lfsr := maskLfsr m (u24At blob (o + 3))
    level := byteAt blob (o + 6)
    phase := Phase.ofByte (byteAt blob (o + 7))
    rc := (u16At blob (o + 8)).setWidth 15
    exp := (byteAt blob (o + 10)).setWidth 5 }

/-- Every field of the snapshot restored at once; nothing else changes, and no WRITE occurs (R292). -/
def restore (blob : List Byte) (s : State) : State :=
  { s with
    regs := Vector.ofFn fun a => byteAt blob a.val
    voices := Voices.ofFn (restoreVoice s.variant.noiseModel blob)
    bp := u32At blob 80
    lp := u32At blob 84
    extHp := u32At blob 88
    extLp := u32At blob 92
    extOut := u32At blob 96
    extIn := u16At blob 100
    so := u32At blob 102
    sprev := u16At blob 106 }

end Sys2Proof.Machine
end

