-- ==== Sys2Proof/Machine/Snapshot.lean ====
section
/-! DEFINITION. Sys2Proof/Machine/Snapshot.lean: READ_STATE and WRITE_STATE (spec/47_snapshot.md R291, R292). -/

namespace Sys2Proof.Machine

open Sys2Proof

/-- `READ_STATE` (R291). -/
def execReadState (s : State) : Outcome := whenAlive s (done (.blob (snapshot s)) s)

/-- `WRITE_STATE` (R292). -/
def execWriteState (blob : List Byte) (s : State) : Outcome :=
  whenAlive s <| require (snapshotOk blob) .badSnapshot <| done .none (restore blob s)

end Sys2Proof.Machine
end

