-- ==== Sys2Proof/Machine/Dispatch.lean ====
section
/-! DEFINITION. Sys2Proof/Machine/Dispatch.lean: one arm for each constructor of Instr. -/

namespace Sys2Proof.Machine

open Sys2Proof

def exec (i : Instr) (s : State) : Host.Outcome State Fault Refusal :=
  match i with
  | .wrFreqLo1 d => Sys2Proof.Machine.execWrFreqLo1 d s
  | .wrFreqHi1 d => Sys2Proof.Machine.execWrFreqHi1 d s
  | .wrPwLo1 d => Sys2Proof.Machine.execWrPwLo1 d s
  | .wrPwHi1 d => Sys2Proof.Machine.execWrPwHi1 d s
  | .wrCtrl1 d => Sys2Proof.Machine.execWrCtrl1 d s
  | .wrAd1 d => Sys2Proof.Machine.execWrAd1 d s
  | .wrSr1 d => Sys2Proof.Machine.execWrSr1 d s
  | .wrFreqLo2 d => Sys2Proof.Machine.execWrFreqLo2 d s
  | .wrFreqHi2 d => Sys2Proof.Machine.execWrFreqHi2 d s
  | .wrPwLo2 d => Sys2Proof.Machine.execWrPwLo2 d s
  | .wrPwHi2 d => Sys2Proof.Machine.execWrPwHi2 d s
  | .wrCtrl2 d => Sys2Proof.Machine.execWrCtrl2 d s
  | .wrAd2 d => Sys2Proof.Machine.execWrAd2 d s
  | .wrSr2 d => Sys2Proof.Machine.execWrSr2 d s
  | .wrFreqLo3 d => Sys2Proof.Machine.execWrFreqLo3 d s
  | .wrFreqHi3 d => Sys2Proof.Machine.execWrFreqHi3 d s
  | .wrPwLo3 d => Sys2Proof.Machine.execWrPwLo3 d s
  | .wrPwHi3 d => Sys2Proof.Machine.execWrPwHi3 d s
  | .wrCtrl3 d => Sys2Proof.Machine.execWrCtrl3 d s
  | .wrAd3 d => Sys2Proof.Machine.execWrAd3 d s
  | .wrSr3 d => Sys2Proof.Machine.execWrSr3 d s
  | .wrFcLo d => Sys2Proof.Machine.execWrFcLo d s
  | .wrFcHi d => Sys2Proof.Machine.execWrFcHi d s
  | .wrResFilt d => Sys2Proof.Machine.execWrResFilt d s
  | .wrModeVol d => Sys2Proof.Machine.execWrModeVol d s
  | .wrPotX d => Sys2Proof.Machine.execWrPotX d s
  | .wrPotY d => Sys2Proof.Machine.execWrPotY d s
  | .wrOsc3 d => Sys2Proof.Machine.execWrOsc3 d s
  | .wrEnv3 d => Sys2Proof.Machine.execWrEnv3 d s
  | .rdFreqLo1 => Sys2Proof.Machine.execRdFreqLo1 s
  | .rdFreqHi1 => Sys2Proof.Machine.execRdFreqHi1 s
  | .rdPwLo1 => Sys2Proof.Machine.execRdPwLo1 s
  | .rdPwHi1 => Sys2Proof.Machine.execRdPwHi1 s
  | .rdCtrl1 => Sys2Proof.Machine.execRdCtrl1 s
  | .rdAd1 => Sys2Proof.Machine.execRdAd1 s
  | .rdSr1 => Sys2Proof.Machine.execRdSr1 s
  | .rdFreqLo2 => Sys2Proof.Machine.execRdFreqLo2 s
  | .rdFreqHi2 => Sys2Proof.Machine.execRdFreqHi2 s
  | .rdPwLo2 => Sys2Proof.Machine.execRdPwLo2 s
  | .rdPwHi2 => Sys2Proof.Machine.execRdPwHi2 s
  | .rdCtrl2 => Sys2Proof.Machine.execRdCtrl2 s
  | .rdAd2 => Sys2Proof.Machine.execRdAd2 s
  | .rdSr2 => Sys2Proof.Machine.execRdSr2 s
  | .rdFreqLo3 => Sys2Proof.Machine.execRdFreqLo3 s
  | .rdFreqHi3 => Sys2Proof.Machine.execRdFreqHi3 s
  | .rdPwLo3 => Sys2Proof.Machine.execRdPwLo3 s
  | .rdPwHi3 => Sys2Proof.Machine.execRdPwHi3 s
  | .rdCtrl3 => Sys2Proof.Machine.execRdCtrl3 s
  | .rdAd3 => Sys2Proof.Machine.execRdAd3 s
  | .rdSr3 => Sys2Proof.Machine.execRdSr3 s
  | .rdFcLo => Sys2Proof.Machine.execRdFcLo s
  | .rdFcHi => Sys2Proof.Machine.execRdFcHi s
  | .rdResFilt => Sys2Proof.Machine.execRdResFilt s
  | .rdModeVol => Sys2Proof.Machine.execRdModeVol s
  | .rdPotX => Sys2Proof.Machine.execRdPotX s
  | .rdPotY => Sys2Proof.Machine.execRdPotY s
  | .rdOsc3 => Sys2Proof.Machine.execRdOsc3 s
  | .rdEnv3 => Sys2Proof.Machine.execRdEnv3 s
  | .create => Sys2Proof.Machine.execCreate s
  | .release => Sys2Proof.Machine.execRelease s
  | .reset => Sys2Proof.Machine.execReset s
  | .setChipModel model => Sys2Proof.Machine.execSetChipModel model s
  | .enableFilter enable => Sys2Proof.Machine.execEnableFilter enable s
  | .enableExtFilter enable => Sys2Proof.Machine.execEnableExtFilter enable s
  | .setSamplingParameters clockFreq method sampleFreq passFreq filterScale => Sys2Proof.Machine.execSetSamplingParameters clockFreq method sampleFreq passFreq filterScale s
  | .adjustSamplingFrequency sampleFreq => Sys2Proof.Machine.execAdjustSamplingFrequency sampleFreq s
  | .clock1 => Sys2Proof.Machine.execClock1 s
  | .clockN n => Sys2Proof.Machine.execClockN n s
  | .clockSamples deltaT buf n interleave => Sys2Proof.Machine.execClockSamples deltaT buf n interleave s
  | .input sample => Sys2Proof.Machine.execInput sample s
  | .output => Sys2Proof.Machine.execOutput s
  | .outputBits bits => Sys2Proof.Machine.execOutputBits bits s
  | .readState => Sys2Proof.Machine.execReadState s
  | .writeState blob => Sys2Proof.Machine.execWriteState blob s

end Sys2Proof.Machine
end

