-- ==== Sys2Proof/Machine/Step.lean ====
section
/-! DEFINITION. Sys2Proof/Machine/Step.lean: one step runs one command of the host's stream to completion
(spec/00_scope.md R8; spec/10_state.md R20). With no command pending the block does nothing (spec/60_exceptions.md
R312). -/

namespace Sys2Proof.Machine

open Sys2Proof

def step (s : State) : Host.Outcome State Fault Refusal :=
  match s.fetch with
  | none => .next s
  | some (c, s') =>
    match decode c with
    | .ok i => exec i s'
    | .error e => refuseUndecoded e s'

/-- The table word `w` of `nbits` bits, with the record `tableOperands` gives it, as the host's next command. -/
def State.withFetchWord (s : State) (nbits w : Nat) : State := s.pushCommand (tableCommand nbits w)

end Sys2Proof.Machine
end

