-- ==== Sys2Proof/WellFormed.lean ====
section
/-! DEFINITION. Sys2Proof/WellFormed.lean: each operand in the domain that spec/30_encoding.md R74 and
spec/60_exceptions.md R303 state for it. Only what the instruction alone shows is checked here: the length of the
caller's buffer and the bytes of a snapshot are operands; the ratio that an ADJUST gives depends on the state. -/

namespace Sys2Proof

open Sys2Proof.Machine

/-- A cycle count or a sample capacity (spec/92_eei_decisions.md D34). -/
def countOk (n : Int) : Bool := decide (0 ≤ n) && decide (n ≤ Params.countMax)

/-- An interleave (spec/92_eei_decisions.md D26). -/
def interleaveOk (il : Int) : Bool := decide (1 ≤ il) && decide (il ≤ Params.countMax)

/-- The caller's buffer holds `n × interleave` elements (spec/20_memory.md R55). -/
def bufferOk (buf : List Sample) (n il : Int) : Bool := decide (n * il ≤ buf.length)

/-- A bit depth (spec/40_orchestrator.md R127). -/
def bitsOk (b : Int) : Bool := decide (1 ≤ b) && decide (b ≤ 19)

/-- An external audio sample (spec/40_orchestrator.md R125). -/
def sampleOk (x : Int) : Bool := decide (-32768 ≤ x) && decide (x ≤ 32767)

/-- A chip model: 0 for A, 1 for B (spec/40_orchestrator.md R122). -/
def modelOk (m : Int) : Bool := decide (m = 0) || decide (m = 1)

/-- A snapshot blob: its length, and each phase byte at most 2 (spec/47_snapshot.md R292). -/
def blobOk (blob : List Byte) : Bool :=
  decide (blob.length = Config.snapshotBytes) &&
    [39, 55, 71].all fun off => decide ((blob.getD off 0#8).toNat ≤ 2)

/-- Every operand of the instruction is in its domain. The operands of SET_SAMPLING_PARAMETERS have none: a bad
configuration is *done* with result false (spec/46_sampler.md R252). -/
def Instr.wf : Instr → Bool
  | .setChipModel m => modelOk m
  | .adjustSamplingFrequency fs => decide (0 < fs)
  | .clockN n => countOk n
  | .clockSamples dt buf n il => countOk dt && countOk n && interleaveOk il && bufferOk buf n il
  | .input x => sampleOk x
  | .outputBits b => bitsOk b
  | .writeState blob => blobOk blob
  | .wrFreqLo1 _ | .wrFreqHi1 _ | .wrPwLo1 _ | .wrPwHi1 _ | .wrCtrl1 _ | .wrAd1 _ | .wrSr1 _ | .wrFreqLo2 _
  | .wrFreqHi2 _ | .wrPwLo2 _ | .wrPwHi2 _ | .wrCtrl2 _ | .wrAd2 _ | .wrSr2 _ | .wrFreqLo3 _ | .wrFreqHi3 _
  | .wrPwLo3 _ | .wrPwHi3 _ | .wrCtrl3 _ | .wrAd3 _ | .wrSr3 _ | .wrFcLo _ | .wrFcHi _ | .wrResFilt _
  | .wrModeVol _ | .wrPotX _ | .wrPotY _ | .wrOsc3 _ | .wrEnv3 _ | .rdFreqLo1 | .rdFreqHi1 | .rdPwLo1
  | .rdPwHi1 | .rdCtrl1 | .rdAd1 | .rdSr1 | .rdFreqLo2 | .rdFreqHi2 | .rdPwLo2 | .rdPwHi2 | .rdCtrl2 | .rdAd2
  | .rdSr2 | .rdFreqLo3 | .rdFreqHi3 | .rdPwLo3 | .rdPwHi3 | .rdCtrl3 | .rdAd3 | .rdSr3 | .rdFcLo | .rdFcHi
  | .rdResFilt | .rdModeVol | .rdPotX | .rdPotY | .rdOsc3 | .rdEnv3 | .create | .release | .reset
  | .enableFilter _ | .enableExtFilter _ | .setSamplingParameters _ _ _ _ _ | .clock1 | .output | .readState => true

end Sys2Proof
end

