-- ==== Sys2Proof/Safety.lean ====
section
/-! DEFINITION. Sys2Proof/Safety.lean: the terms in which claims are stated: the invariant of the state, when a command
is refused (spec/60_exceptions.md R303, R304), the reserved words (spec/30_encoding.md R75), and the commands grouped by
voice or by address. -/

namespace Sys2Proof.Safety

open Sys2Proof Sys2Proof.Machine

/-! ## The invariant -/

/-- Every noise register is within `NOISE_WIDTH` bits (spec/10_state.md R24). -/
abbrev LfsrInWidth (s : State) : Prop :=
  ∀ v : Fin 3, (s.voice v).lfsr.toNat < 2 ^ Params.noiseWidth s.variant.noiseModel

/-- The FIR set has `fir_N × fir_RES` taps, and neither is 0 (spec/10_state.md R34). -/
def firOk : SampleMethod → Bool
  | .decimate => true
  | .interpolate => true
  | .resample fir => decide (0 < fir.n) && decide (0 < fir.res) && decide (fir.taps.length = fir.n * fir.res)

/-- What holds after CREATE and is kept by every step: the ring is in canonical form, the noise registers are within
their width, the FIR set has its size, the frequencies are positive, and `cps` is the ratio of the two, in range
(spec/10_state.md R24, R33, R34; spec/46_sampler.md R251). -/
abbrev Inv (s : State) : Prop :=
  ringWf s.ring = true ∧ LfsrInWidth s ∧ firOk s.method = true ∧ 0 < s.clockFreq ∧ 0 < s.sampleFreq ∧
    cpsInRange (cpsOf s.clockFreq s.sampleFreq) = true ∧ (s.cps : Int) = cpsOf s.clockFreq s.sampleFreq

/-! ## Refusals -/

/-- A cycle count or a sample capacity in its domain. -/
abbrev CountOk (n : Int) : Prop := 0 ≤ n ∧ n ≤ 2 ^ 31 - 1

/-- An interleave in its domain. -/
abbrev InterleaveOk (il : Int) : Prop := 1 ≤ il ∧ il ≤ 2 ^ 31 - 1

/-- A snapshot blob that WRITE_STATE accepts. -/
abbrev BlobOk (blob : List Byte) : Prop :=
  blob.length = 112 ∧ (blob.getD 39 0#8).toNat ≤ 2 ∧ (blob.getD 55 0#8).toNat ≤ 2 ∧ (blob.getD 71 0#8).toNat ≤ 2

/-- A sample frequency that ADJUST_SAMPLING_FREQUENCY accepts in a state. -/
abbrev AdjustOk (fs : Rat) (s : State) : Prop :=
  0 < fs ∧ 65536 ≤ cpsOf s.clockFreq fs ∧ cpsOf s.clockFreq fs ≤ 2 ^ 31 - 1

/-- The reason of the lowest code that applies to a decoded command, if one does: the table of spec/60_exceptions.md
R303 with the priority of R304. That the operands 0 and 1 are the two models is the model's choice (assumption 6). -/
def refusalOf (i : Instr) (s : State) : Option Refusal :=
  if i = .create then none
  else if s.alive = false then some .notAlive
  else
    match i with
    | .clockN n => if CountOk n then none else some .badCount
    | .clockSamples dt buf n il =>
      if ¬(CountOk dt ∧ CountOk n) then some .badCount
      else if ¬InterleaveOk il then some .badInterleave
      else if buf.length < n * il then some .bufferTooSmall
      else none
    | .outputBits b => if 1 ≤ b ∧ b ≤ 19 then none else some .badBits
    | .input x => if -32768 ≤ x ∧ x ≤ 32767 then none else some .badSample
    | .setChipModel m => if m = 0 ∨ m = 1 then none else some .badModel
    | .writeState blob => if BlobOk blob then none else some .badSnapshot
    | .adjustSamplingFrequency fs => if AdjustOk fs s then none else some .badSampleFreq
    | _ => none

/-- The reserved command words, by their fields as numbers (spec/30_encoding.md R75): class 11; bit 13 set; a bus
address from 29 to 31; a BUS-R word with a nonzero low byte; a HOST word with nonzero bits 13:8; a host opcode from
0x10. -/
abbrev ReservedWord (w : Word) : Prop :=
  let n := w.toNat
  n / 2 ^ 14 = 3 ∨ n / 2 ^ 13 % 2 = 1 ∨
    ((n / 2 ^ 14 = 0 ∨ n / 2 ^ 14 = 1) ∧ 29 ≤ n / 2 ^ 8 % 32) ∨
    (n / 2 ^ 14 = 1 ∧ n % 256 ≠ 0) ∨
    (n / 2 ^ 14 = 2 ∧ n / 2 ^ 8 % 64 ≠ 0) ∨
    (n / 2 ^ 14 = 2 ∧ 0x10 ≤ n % 256)

/-! ## Commands by voice and by address -/

/-- The write of FreqLo of voice v. -/
def wrFreqLo (v : Fin 3) (d : Byte) : Instr :=
  match v with
  | 0 => .wrFreqLo1 d
  | 1 => .wrFreqLo2 d
  | 2 => .wrFreqLo3 d

/-- The write of FreqHi of voice v. -/
def wrFreqHi (v : Fin 3) (d : Byte) : Instr :=
  match v with
  | 0 => .wrFreqHi1 d
  | 1 => .wrFreqHi2 d
  | 2 => .wrFreqHi3 d

/-- The write of PwLo of voice v. -/
def wrPwLo (v : Fin 3) (d : Byte) : Instr :=
  match v with
  | 0 => .wrPwLo1 d
  | 1 => .wrPwLo2 d
  | 2 => .wrPwLo3 d

/-- The write of PwHi of voice v. -/
def wrPwHi (v : Fin 3) (d : Byte) : Instr :=
  match v with
  | 0 => .wrPwHi1 d
  | 1 => .wrPwHi2 d
  | 2 => .wrPwHi3 d

/-- The write of Ctrl of voice v. -/
def wrCtrl (v : Fin 3) (d : Byte) : Instr :=
  match v with
  | 0 => .wrCtrl1 d
  | 1 => .wrCtrl2 d
  | 2 => .wrCtrl3 d

/-- The write of Ad of voice v. -/
def wrAd (v : Fin 3) (d : Byte) : Instr :=
  match v with
  | 0 => .wrAd1 d
  | 1 => .wrAd2 d
  | 2 => .wrAd3 d

/-- The write of Sr of voice v. -/
def wrSr (v : Fin 3) (d : Byte) : Instr :=
  match v with
  | 0 => .wrSr1 d
  | 1 => .wrSr2 d
  | 2 => .wrSr3 d

/-- The writes of the read side, with their addresses (spec/40_orchestrator.md R115). -/
def readSideWrites : List (Fin 29 × (Byte → Instr)) :=
  [(25, .wrPotX), (26, .wrPotY), (27, .wrOsc3), (28, .wrEnv3)]

/-- The reads that return the stored byte, with their addresses (spec/40_orchestrator.md R117). -/
def storedReads : List (Fin 29 × Instr) :=
  [(0, .rdFreqLo1), (1, .rdFreqHi1), (2, .rdPwLo1), (3, .rdPwHi1), (4, .rdCtrl1), (5, .rdAd1), (6, .rdSr1),
    (7, .rdFreqLo2), (8, .rdFreqHi2), (9, .rdPwLo2), (10, .rdPwHi2), (11, .rdCtrl2), (12, .rdAd2), (13, .rdSr2),
    (14, .rdFreqLo3), (15, .rdFreqHi3), (16, .rdPwLo3), (17, .rdPwHi3), (18, .rdCtrl3), (19, .rdAd3), (20, .rdSr3),
    (21, .rdFcLo), (22, .rdFcHi), (23, .rdResFilt), (24, .rdModeVol)]

/-- The command runs cycles. -/
def clocks : Instr → Bool
  | .clock1 | .clockN _ | .clockSamples _ _ _ _ => true
  | _ => false

/-- The command is a CONTROL write of voice v. -/
def isCtrlWrite (v : Fin 3) (i : Instr) : Prop := ∃ d, i = wrCtrl v d

/-- `k` times the same command, stopping where it does not give a next state. -/
def repeatExec (i : Instr) : Nat → State → Host.Outcome State Fault Refusal
  | 0, s => .next s
  | k + 1, s =>
    match exec i s with
    | .next t => repeatExec i k t
    | .fault f => .fault f
    | .refused r => .refused r

/-! ## Frames and relations -/

/-- The state after a register write whose only effect is the stored byte (spec/20_memory.md R56). -/
abbrev StoredOnly (a : Fin 29) (d : Byte) (s t : State) : Prop :=
  t = { s with regs := t.regs, result := .none } ∧ t.reg a = d ∧ ∀ b, b ≠ a → t.reg b = s.reg b

/-- The "after CREATE" and "after RESET" column of spec/10_state.md R39, without the fields that RESET preserves. -/
structure AtPowerUp (t : State) : Prop where
  regs   : ∀ a, t.reg a = 0#8
  acc    : ∀ v, (t.voice v).acc = 0#24
  lfsr   : ∀ v, (t.voice v).lfsr = Params.noiseSeed t.variant.noiseModel
  level  : ∀ v, (t.voice v).level = 0#8
  phase  : ∀ v, (t.voice v).phase = .release
  rc     : ∀ v, (t.voice v).rc = 0#15
  exp    : ∀ v, (t.voice v).exp = 0#5
  bp     : t.bp = 0#32
  lp     : t.lp = 0#32
  extHp  : t.extHp = 0#32
  extLp  : t.extLp = 0#32
  extOut : t.extOut = 0#32
  extIn  : t.extIn = 0#16
  so     : t.so = 0#32
  sprev  : t.sprev = 0#16
  ring   : ∀ i, ringGet t.ring i = 0#16
  ri     : t.ri = 0#14

/-- The two states differ at most in the bytes stored at addresses 25 to 28. -/
structure SameButReadSide (s s' : State) : Prop where
  rest : s' = { s with regs := s'.regs }
  low  : ∀ a : Fin 29, a.val < 25 → s'.reg a = s.reg a

/-- The two states differ at most in the chip model and in what the filter's output reaches: the integrators, the
external filter, the output, the ring, `sprev`, the caller's buffer and the last result. -/
def SameButFiltered (s s' : State) : Prop :=
  s' =
    { s with
      model := s'.model
      bp := s'.bp
      lp := s'.lp
      extHp := s'.extHp
      extLp := s'.extLp
      extOut := s'.extOut
      ring := s'.ring
      sprev := s'.sprev
      callerBuf := s'.callerBuf
      result := s'.result }

/-- The two states differ at most in the sampler ring and its index. -/
def SameButRing (s s' : State) : Prop := s' = { s with ring := s'.ring, ri := s'.ri }

/-- The method is RESAMPLE. -/
def isResample : SampleMethod → Bool
  | .resample _ => true
  | _ => false

/-- The instance's configuration: what a snapshot does not carry, apart from the ring (spec/47_snapshot.md R294). -/
abbrev SameConfig (s r : State) : Prop :=
  r.variant = s.variant ∧ r.tables = s.tables ∧ r.alive = s.alive ∧ r.model = s.model ∧ r.filterEn = s.filterEn ∧
    r.extEn = s.extEn ∧ r.method = s.method ∧ r.clockFreq = s.clockFreq ∧ r.sampleFreq = s.sampleFreq ∧
    r.passFreq = s.passFreq ∧ r.filterScale = s.filterScale ∧ r.cps = s.cps

/-! ## Quantities of the spec, in integers -/

/-- The `n` bytes from `off` on as a little-endian number (spec/20_memory.md R53). -/
def leNat (blob : List Byte) (off : Nat) : (n : Nat) → Nat
  | 0 => 0
  | n + 1 => (blob.getD off 0#8).toNat + 256 * leNat blob (off + 1) n

/-- An integer reduced to a signed 32-bit value (spec/00_scope.md R11). -/
def wrap32 (x : Int) : Int := Int.bmod x (2 ^ 32)

/-- `RATE_PERIOD` (spec/43_envelope.md R194). -/
def ratePeriods : List Nat := [9, 32, 63, 95, 149, 220, 267, 313, 392, 977, 1954, 3126, 3907, 11720, 19532, 31251]

/-- The bands of `ExpDiv`: the lowest level of each and its divisor, the highest band first (spec/43_envelope.md
R197). -/
def expBands : List (Nat × Nat) := [(94, 1), (55, 2), (27, 4), (15, 8), (7, 16), (1, 30), (0, 1)]

/-- `ExpDiv(level)`. -/
def expDivisor (level : Nat) : Nat := ((expBands.find? fun b => decide (b.1 ≤ level)).map Prod.snd).getD 1

/-- `Q1024` (spec/44_filter.md R226). -/
def resonances : List Int := [1448, 1323, 1218, 1128, 1051, 984, 925, 872, 825, 783, 745, 710, 679, 650, 624, 599]

/-- The rate period that voice v counts to, from its phase and its AD and SR registers (spec/43_envelope.md R194). -/
def periodOf (s : State) (v : Fin 3) : Nat :=
  match (s.voice v).phase with
  | .attack => ratePeriods.getD ((s.reg (voiceAddr v 5)).toNat / 16) 0
  | .decayOrSustain => ratePeriods.getD ((s.reg (voiceAddr v 5)).toNat % 16) 0
  | .release => ratePeriods.getD ((s.reg (voiceAddr v 6)).toNat % 16) 0

/-- The exact sum of a voice's add in one cycle (spec/42_oscillator.md R160). -/
def addOf (s : State) (v : Fin 3) : Nat := (s.voice v).acc.toNat + (s.freq v).toNat

/-- Voice v triggers sync in one cycle (spec/42_oscillator.md R160, R171). -/
def triggers (s : State) (v : Fin 3) : Prop :=
  s.test v = false ∧
    match s.variant.syncEdge with
    | .wrap => 2 ^ 24 ≤ addOf s v
    | .msbRise => (s.voice v).acc.toNat < 2 ^ 23 ∧ 2 ^ 23 ≤ addOf s v % 2 ^ 24

/-- `Vi`: the sum of the inputs that `filt` routes (spec/44_filter.md R223). -/
def routedSum (s : State) : Int := ∑ k : Fin 4, if s.filt.getLsbD k then filterIn s k else 0

/-- `Vnf`: the sum of the others (spec/44_filter.md R223). -/
def unroutedSum (s : State) : Int := ∑ k : Fin 4, if s.filt.getLsbD k then 0 else filterIn s k

/-- `hp` of the cycle from s to t: from the inputs of t, which are those after stage 3, and the integrators of s
(spec/44_filter.md R224). -/
def cycleHp (s t : State) : Int :=
  wrap32 (routedSum t - s.lp.toInt - s.bp.toInt * resonances.getD s.res.toNat 0 / 2 ^ 10)

/-- `Vf` of the cycle from s to t (spec/44_filter.md R227). -/
def cycleTaps (s t : State) : Int :=
  (if s.lpOn then t.lp.toInt else 0) + (if s.bpOn then t.bp.toInt else 0) + (if s.hpOn then cycleHp s t else 0)

/-- `mix` of the cycle from s to t (spec/44_filter.md R228, R229). -/
def cycleMix (s t : State) : Int :=
  if s.filterEn then wrap32 ((unroutedSum t + cycleTaps s t) * s.vol.toNat)
  else wrap32 ((filterIn t 0 + filterIn t 1 + filterIn t 2 + filterIn t 3) * s.vol.toNat)

/-- A sampling configuration that is accepted: the checks of spec/46_sampler.md R253. -/
abbrev SamplingOk (fc : Rat) (method : Int) (fs pass scale : Rat) : Prop :=
  0 < fc ∧ 0 < fs ∧ (method = 0 ∨ method = 1 ∨ method = 2) ∧
    65536 ≤ cpsOf fc fs ∧ cpsOf fc fs ≤ 2 ^ 31 - 1 ∧
    (method = 2 → 125 * fc / fs < 16384 ∧ (0 ≤ pass → pass ≤ 9 / 10 * fs / 2) ∧ 9 / 10 ≤ scale ∧ scale ≤ 1)

/-- `nso` of the loops, from the sampler's position, the ratio and the offset that DECIMATE adds (spec/46_sampler.md
R257 to R259). -/
def nsoOf (s : State) : Int := s.so.toInt + s.cps + (if s.method = .decimate then 2 ^ 15 else 0)

/-- `dts`: the cycles to the next sample (spec/46_sampler.md R257 to R259). -/
def dtsOf (s : State) : Nat := (max (nsoOf s / 2 ^ 16) 1).toNat

/-- `OutScale(16)` of a state's output (spec/45_external_filter.md R243, R244). -/
def outOf (s : State) : Int := max (-32768) (min 32767 (Int.tdiv s.extOut.toInt 11))

end Sys2Proof.Safety
end

