-- ==== Sys2Proof/Certificates/Slice0/Obligations.lean ====
section
/-! DEFINITION. Sys2Proof/Certificates/Slice0/Obligations.lean: the statements for the provers. Each says in its docstring
which rule of spec/ it formalises. A statement in the form `exec i s = .next t`, or `there is t with exec i s = .next t`,
says that the command completes. -/

open Sys2Proof Sys2Proof.Machine Sys2Proof.Safety

/-! ## Encoding -/

/-- Decode and encode agree: decoding the command of any instruction, with every operand at every value, gives it back
(spec/30_encoding.md R70 to R74). -/
def Obligations.DecodeOfEncode : Prop := ∀ i : Instr, decode (encode i) = .ok i

/-- Each instruction has one command word: a command that decodes to it carries the word the encoder writes
(spec/30_encoding.md R87). -/
def Obligations.EncodeOfDecode : Prop :=
  ∀ (c : Command) (i : Instr), decode c = .ok i → (encode i).word = c.word

/-- R75: a reserved word is refused with `ReservedEncoding`, whatever stands beside it, and every other word is one row
of the table: some record beside it makes it that row's instruction. -/
def Obligations.ReservedWordsRefused : Prop :=
  ∀ w : Word,
    (ReservedWord w → ∀ (ops : Operands) (rest : List Command) (s : State), s.alive = true →
      s.cmds = { word := w, operands := ops } :: rest → step s = .refused .reservedEncoding) ∧
    (¬ReservedWord w → ∃ ops i, decode { word := w, operands := ops } = .ok i ∧ (encode i).word = w)

/-- The division of the command space by ranges of words (spec/30_encoding.md R88). -/
def Obligations.CommandSpace : Prop :=
  ∀ w : Word,
    (∃ ops i, decode { word := w, operands := ops } = .ok i) ↔
      w.toNat ≤ 0x1CFF ∨ (0x4000 ≤ w.toNat ∧ w.toNat ≤ 0x5C00 ∧ w.toNat % 256 = 0) ∨
        (0x8000 ≤ w.toNat ∧ w.toNat ≤ 0x800F)

/-- Words written out from the tables of spec/30_encoding.md R70 and R74 decode to their instructions, and an omitted
operand takes its default. That CREATE's configuration arguments stand in a record of their own is the model's
choice (assumption 9). -/
def Obligations.WordsFromTables : Prop :=
  decode { word := 0b0000010000100001#16, operands := .bare } = .ok (.wrCtrl1 0x21#8) ∧
  decode { word := 0b0001100000011111#16, operands := .bare } = .ok (.wrModeVol 0x1F#8) ∧
  decode { word := 0b0101101100000000#16, operands := .bare } = .ok .rdOsc3 ∧
  decode { word := 0b1000000000000000#16, operands := .bare } = .ok .create ∧
  (∀ args, decode { word := 0b1000000000000000#16, operands := .config args } = .ok .create) ∧
  decode { word := 0b1000000000001000#16, operands := .bare } = .ok .clock1 ∧
  decode { word := 0b1000000000001011#16, operands := .sample 800 } = .ok (.input 800) ∧
  (∀ fc m fs, decode { word := 0b1000000000000110#16, operands := .sampling fc m fs none none } =
    .ok (.setSamplingParameters fc m fs (-1) (97 / 100))) ∧
  (∀ dt buf n, decode { word := 0b1000000000001010#16, operands := .samples dt buf n none } =
    .ok (.clockSamples dt buf n 1))

/-! ## The step -/

/-- A step takes the host's next command and runs the instruction it decodes to; with no command pending nothing changes
(spec/00_scope.md R8; spec/10_state.md R20; spec/60_exceptions.md R312). The configuration arguments beside the command
stand in `createArgs` while it runs (spec/40_orchestrator.md R100); how a record gives them, and that a CREATE without
them is one of the normative hardware, is the model's choice (assumption 9). -/
def Obligations.StepRunsDecoded : Prop :=
  (∀ (s : State) (c : Command) (rest : List Command) (i : Instr), s.cmds = c :: rest → decode c = .ok i →
    step s = exec i { s with cmds := rest, createArgs := createArgsOf c.operands }) ∧
  (∀ args, createArgsOf (.config args) = args) ∧
  (createArgsOf .bare).variant =
    { ringMode := .pulseSign, syncEdge := .wrap, noiseModel := .doc12, gateResetsCounter := true } ∧
  (∀ s : State, s.cmds = [] → step s = .next s)

/-- A command is refused exactly where the table of refusals says, with the reason of the lowest code that applies, and
is done everywhere else (spec/60_exceptions.md R303, R304); a reserved word is refused before its command is known,
`NotAlive` first (spec/30_encoding.md R75). Code 3 has no command word of its own: addresses 29 to 31 are reserved words.
That 0 and 1 are the operands that name a model is the model's choice (assumption 6). -/
def Obligations.RefusedExactly : Prop :=
  (∀ (i : Instr) (s : State) (r : Refusal), exec i s = .refused r ↔ refusalOf i s = some r) ∧
  (∀ (i : Instr) (s : State), refusalOf i s = none → ∃ t, exec i s = .next t) ∧
  (∀ (s : State) (c : Command) (rest : List Command), s.cmds = c :: rest → ReservedWord c.word →
    step s = .refused (if s.alive then .reservedEncoding else .notAlive))

/-! ## Register writes -/

/-- R104: the write of a voice's frequency low byte, its words, its effect and its frame; and that of the high byte
(spec/40_orchestrator.md R105). -/
def Obligations.FrequencyWrites : Prop :=
  ∀ (v : Fin 3) (d : Byte) (s : State), s.alive = true →
    (encode (wrFreqLo v d)).word.toNat = 0x0700 * v.val + d.toNat ∧
    (encode (wrFreqHi v d)).word.toNat = 0x0100 + 0x0700 * v.val + d.toNat ∧
    (∃ t, exec (wrFreqLo v d) s = .next t ∧ StoredOnly (voiceAddr v 0) d s t ∧
      (t.freq v).toNat = (s.freq v).toNat / 256 * 256 + d.toNat) ∧
    (∃ t, exec (wrFreqHi v d) s = .next t ∧ StoredOnly (voiceAddr v 1) d s t ∧
      (t.freq v).toNat = d.toNat * 256 + (s.freq v).toNat % 256)

/-- R106 and R107: the two pulse width writes of every voice; bits 7:4 of the high byte are stored and have no other
effect. -/
def Obligations.PulseWidthWrites : Prop :=
  ∀ (v : Fin 3) (d : Byte) (s : State), s.alive = true →
    (encode (wrPwLo v d)).word.toNat = 0x0200 + 0x0700 * v.val + d.toNat ∧
    (encode (wrPwHi v d)).word.toNat = 0x0300 + 0x0700 * v.val + d.toNat ∧
    (∃ t, exec (wrPwLo v d) s = .next t ∧ StoredOnly (voiceAddr v 2) d s t ∧
      (t.pw v).toNat = (s.pw v).toNat / 256 * 256 + d.toNat) ∧
    (∃ t, exec (wrPwHi v d) s = .next t ∧ StoredOnly (voiceAddr v 3) d s t ∧
      (t.pw v).toNat = d.toNat % 16 * 256 + (s.pw v).toNat % 256)

/-- The CONTROL write of every voice, with R192 for the falling gate. It stores the byte (spec/40_orchestrator.md R108);
TEST in the new byte clears the accumulator and seeds the noise register at once; a gate edge changes the phase, a
rising one clears the rate counter under `GATE_RESETS_COUNTER`; the level, the exponential counter and the other voices
stay, and so does everything else. -/
def Obligations.ControlWrites : Prop :=
  ∀ (v : Fin 3) (d : Byte) (s : State), s.alive = true →
    (encode (wrCtrl v d)).word.toNat = 0x0400 + 0x0700 * v.val + d.toNat ∧
    ∃ t, exec (wrCtrl v d) s = .next t ∧
      t = { s with regs := t.regs, voices := t.voices, result := .none } ∧
      t.ctrl v = d ∧ (∀ b, b ≠ voiceAddr v 4 → t.reg b = s.reg b) ∧
      (∀ u, u ≠ v → t.voice u = s.voice u) ∧
      (t.voice v).acc = (if d.getLsbD 3 then 0#24 else (s.voice v).acc) ∧
      (t.voice v).lfsr = (if d.getLsbD 3 then Params.noiseSeed s.variant.noiseModel else (s.voice v).lfsr) ∧
      (t.voice v).level = (s.voice v).level ∧ (t.voice v).exp = (s.voice v).exp ∧
      (t.voice v).phase =
        (if (s.ctrl v).getLsbD 0 = false ∧ d.getLsbD 0 = true then .attack
        else if (s.ctrl v).getLsbD 0 = true ∧ d.getLsbD 0 = false then .release else (s.voice v).phase) ∧
      (t.voice v).rc =
        (if (s.ctrl v).getLsbD 0 = false ∧ d.getLsbD 0 = true ∧ s.variant.gateResetsCounter = true then 0#15
        else (s.voice v).rc)

/-- The envelope rate writes of every voice: two nibbles each, and nothing else changes (spec/40_orchestrator.md R109,
R110). -/
def Obligations.EnvelopeRateWrites : Prop :=
  ∀ (v : Fin 3) (d : Byte) (s : State), s.alive = true →
    (encode (wrAd v d)).word.toNat = 0x0500 + 0x0700 * v.val + d.toNat ∧
    (encode (wrSr v d)).word.toNat = 0x0600 + 0x0700 * v.val + d.toNat ∧
    (∃ t, exec (wrAd v d) s = .next t ∧ StoredOnly (voiceAddr v 5) d s t ∧
      (t.attack v).toNat = d.toNat / 16 ∧ (t.decay v).toNat = d.toNat % 16) ∧
    (∃ t, exec (wrSr v d) s = .next t ∧ StoredOnly (voiceAddr v 6) d s t ∧
      (t.sustain v).toNat = d.toNat / 16 ∧ (t.release v).toNat = d.toNat % 16)

/-- R111 and R112: the two cutoff writes; and those of resonance and routing, mode and volume (spec/40_orchestrator.md
R113, R114). -/
def Obligations.FilterWrites : Prop :=
  ∀ (d : Byte) (s : State), s.alive = true →
    ((encode (.wrFcLo d)).word.toNat = 0x1500 + d.toNat ∧
      ∃ t, exec (.wrFcLo d) s = .next t ∧ StoredOnly 21 d s t ∧
        t.fc.toNat = s.fc.toNat / 8 * 8 + d.toNat % 8) ∧
    ((encode (.wrFcHi d)).word.toNat = 0x1600 + d.toNat ∧
      ∃ t, exec (.wrFcHi d) s = .next t ∧ StoredOnly 22 d s t ∧ t.fc.toNat = d.toNat * 8 + s.fc.toNat % 8) ∧
    ((encode (.wrResFilt d)).word.toNat = 0x1700 + d.toNat ∧
      ∃ t, exec (.wrResFilt d) s = .next t ∧ StoredOnly 23 d s t ∧
        t.res.toNat = d.toNat / 16 ∧ t.filt.toNat = d.toNat % 16) ∧
    ((encode (.wrModeVol d)).word.toNat = 0x1800 + d.toNat ∧
      ∃ t, exec (.wrModeVol d) s = .next t ∧ StoredOnly 24 d s t ∧ t.vol.toNat = d.toNat % 16 ∧
        t.lpOn = d.getLsbD 4 ∧ t.bpOn = d.getLsbD 5 ∧ t.hpOn = d.getLsbD 6 ∧ t.off3 = d.getLsbD 7)

/-- The writes of the read side complete, store the byte and change nothing else (spec/40_orchestrator.md R115). -/
def Obligations.ReadSideWrites : Prop :=
  ∀ p ∈ readSideWrites, ∀ (d : Byte) (s : State), s.alive = true →
    (encode (p.2 d)).word.toNat = 0x0100 * p.1.val + d.toNat ∧
    ∃ t, exec (p.2 d) s = .next t ∧ StoredOnly p.1 d s t

/-- What is stored at addresses 25 to 28 never influences the simulation: no command but READ_STATE tells two states
apart that differ only there (spec/20_memory.md R56; spec/40_orchestrator.md R115). -/
def Obligations.ReadSideDoesNotInfluence : Prop :=
  ∀ (i : Instr) (s s' t : State), SameButReadSide s s' → i ≠ .readState → exec i s = .next t →
    ∃ t', exec i s' = .next t' ∧ SameButReadSide t t'

/-! ## Register reads -/

/-- A read of an address from 0 to 24 returns the stored byte and changes no state (spec/40_orchestrator.md R117). -/
def Obligations.StoredReads : Prop :=
  ∀ p ∈ storedReads, ∀ s : State, s.alive = true →
    (encode p.2).word.toNat = 0x4000 + 0x0100 * p.1.val ∧
    exec p.2 s = .next { s with result := .byte (s.reg p.1) }

/-- The reads of addresses 25 to 28 complete with the live values: POTX and POTY the constant 0xFF, OSC3 bits 11:4 of
voice 3's waveform (0 with no waveform selected), ENV3 voice 3's level (spec/40_orchestrator.md R118 to R121). -/
def Obligations.LiveReads : Prop :=
  ∀ s : State, s.alive = true →
    exec .rdPotX s = .next { s with result := .byte 0xFF#8 } ∧
    exec .rdPotY s = .next { s with result := .byte 0xFF#8 } ∧
    (∃ b : Byte, exec .rdOsc3 s = .next { s with result := .byte b } ∧ b.toNat = (wave s 2).toNat / 16 ∧
      ((s.reg 18).toNat < 16 → b = 0#8)) ∧
    exec .rdEnv3 s = .next { s with result := .byte (s.voice 2).level }

/-- For every address the byte written at it is read back, except at addresses 25 to 28, where the answer is what it was
before the write (spec/40_orchestrator.md R115 to R121). -/
def Obligations.WriteThenRead : Prop :=
  ∀ (a : Nat) (d : Byte) (i j : Instr) (s t t' : State), writeRow a d = some i → readRow a = some j →
    exec i s = .next t → exec j t = .next t' →
      (a < 25 → t'.result = .byte d) ∧
      (25 ≤ a → ∃ u, exec j s = .next u ∧ t'.result = u.result)

/-! ## Lifecycle and configuration -/

/-- R39: every field of its table after CREATE and after RESET, with the fields that RESET preserves; and R100: CREATE
completes in every state, with the configuration arguments given with it, the variant parameters and the cutoff tables,
which RESET keeps. -/
def Obligations.PowerUpValues : Prop :=
  (encode .create).word = 0x8000#16 ∧
  (∀ s : State, ∃ t, exec .create s = .next t ∧
    t.variant = s.createArgs.variant ∧ t.tables = s.createArgs.tables ∧ AtPowerUp t ∧ t.model = .A ∧ t.filterEn = true ∧ t.extEn = true ∧
    t.method = .decimate ∧ t.clockFreq = 985248 ∧ t.sampleFreq = 44100 ∧ t.passFreq = -1 ∧
    t.filterScale = 97 / 100 ∧ t.cps = 1464154 ∧ t.alive = true) ∧
  (∀ s : State, s.alive = true → ∃ t, exec .reset s = .next t ∧ t.variant = s.variant ∧ t.tables = s.tables ∧
    AtPowerUp t ∧ t.alive = true ∧
    t.model = s.model ∧ t.filterEn = s.filterEn ∧ t.extEn = s.extEn ∧ t.method = s.method ∧
    t.clockFreq = s.clockFreq ∧ t.sampleFreq = s.sampleFreq ∧ t.passFreq = s.passFreq ∧
    t.filterScale = s.filterScale ∧ t.cps = s.cps)

/-- R101: RELEASE completes and clears `alive` alone, and is refused when that is already false; after it every command
on the instance is refused with `NotAlive`, a second RELEASE among them (CREATE makes a new instance). -/
def Obligations.ReleaseEndsInstance : Prop :=
  ∀ s : State,
    (encode .release).word = 0x8001#16 ∧
    (s.alive = false → exec .release s = .refused .notAlive) ∧
    (s.alive = true → exec .release s = .next { s with alive := false, result := .none }) ∧
    (∀ (t : State) (i : Instr), exec .release s = .next t → i ≠ .create → exec i t = .refused .notAlive)

/-- R331: (a) a second RESET changes nothing more; (b) the result depends only on the preserved fields; (c) every voice
is in Release at level 0, and the next gate-on write starts an Attack; (d) every read of addresses 0 to 24 gives 0, OSC3
and ENV3 give 0, POTX and POTY give 0xFF, and OUTPUT gives 0. -/
def Obligations.ResetProperties : Prop :=
  ∀ s t : State, exec .reset s = .next t →
    exec .reset t = .next t ∧
    (∀ s' t' : State, SameConfig s s' → exec .reset s' = .next t' →
      t' = { t with cmds := s'.cmds, callerBuf := s'.callerBuf, createArgs := s'.createArgs }) ∧
    (∀ v, (t.voice v).phase = .release ∧ (t.voice v).level = 0#8) ∧
    (∀ (v : Fin 3) (d : Byte) (u : State), d.getLsbD 0 = true → exec (wrCtrl v d) t = .next u →
      (u.voice v).phase = .attack) ∧
    (∀ p ∈ storedReads, exec p.2 t = .next { t with result := .byte 0#8 }) ∧
    exec .rdOsc3 t = .next { t with result := .byte 0#8 } ∧
    exec .rdEnv3 t = .next { t with result := .byte 0#8 } ∧
    exec .rdPotX t = .next { t with result := .byte 0xFF#8 } ∧
    exec .rdPotY t = .next { t with result := .byte 0xFF#8 } ∧
    exec .output t = .next { t with result := .sample 0 }

/-- The three configuration latches: each command sets its latch and nothing else, and a model outside the two is
refused (spec/40_orchestrator.md R122 to R124). That the operand 0 stands for model A and 1 for B is the model's choice
(assumption 6). -/
def Obligations.ConfigurationLatches : Prop :=
  ∀ s : State, s.alive = true →
    exec (.setChipModel 0) s = .next { s with model := .A, result := .none } ∧
    exec (.setChipModel 1) s = .next { s with model := .B, result := .none } ∧
    (∀ m, m ≠ 0 → m ≠ 1 → exec (.setChipModel m) s = .refused .badModel) ∧
    (∀ b, exec (.enableFilter b) s = .next { s with filterEn := b, result := .none }) ∧
    (∀ b, exec (.enableExtFilter b) s = .next { s with extEn := b, result := .none })

/-- INPUT sets the external input to the sample and changes nothing else; a sample outside s16 is refused
(spec/40_orchestrator.md R125). -/
def Obligations.InputLatch : Prop :=
  ∀ (x : Int) (s : State), s.alive = true →
    (-32768 ≤ x ∧ x ≤ 32767 → ∃ t, exec (.input x) s = .next t ∧
      t = { s with extIn := t.extIn, result := .none } ∧ t.extIn.toInt = x) ∧
    (¬(-32768 ≤ x ∧ x ≤ 32767) → exec (.input x) s = .refused .badSample)

/-- R127 and R243: OUTPUT_BITS answers, for a depth from 1 to 19, the output divided by `OUT_BASE div 2^bits`, truncated
toward zero and clamped to a signed value of that depth, and refuses every other depth; OUTPUT is the depth 16 (R126).
No state changes. -/
def Obligations.OutputScaling : Prop :=
  ∀ s : State, s.alive = true →
    (∀ b : Int, (encode (.outputBits b)).word = 0x800D#16) ∧
    (∀ b : Nat, 1 ≤ b → b ≤ 19 → ∃ x : Int, exec (.outputBits b) s = .next { s with result := .sample x } ∧
      x = max (-2 ^ (b - 1)) (min (2 ^ (b - 1) - 1) (Int.tdiv s.extOut.toInt ((734220 / 2 ^ b : Nat) : Int))) ∧
      -2 ^ (b - 1) ≤ x ∧ x < 2 ^ (b - 1) ∧ 1 ≤ 734220 / 2 ^ b) ∧
    (∀ b : Int, b < 1 ∨ 19 < b → exec (.outputBits b) s = .refused .badBits) ∧
    exec .output s = .next { s with result := .sample (outOf s) }

/-! ## Clocking -/

/-- CLOCK1 and CLOCKN complete with the clocked state, `Clock(k)` is the cycle step run k times, and a count outside [0,
2^31 − 1] is refused; the frame of clocking: the voices, the filters' state, the output, the ring and its index change,
the index by k, and nothing else does (spec/41_clocking.md R141 to R144; spec/46_sampler.md R262). -/
def Obligations.ClockCommands : Prop :=
  (∀ s : State, s.alive = true → exec .clock1 s = .next { clock 1 s with result := .none }) ∧
  (∀ (n : Int) (s : State), s.alive = true → CountOk n →
    exec (.clockN n) s = .next { clock n.toNat s with result := .none }) ∧
  (∀ (n : Int) (s : State), s.alive = true → ¬CountOk n → exec (.clockN n) s = .refused .badCount) ∧
  (∀ s : State, clock 0 s = s) ∧
  (∀ (k : Nat) (s : State), clock (k + 1) s = cycleStep (clock k s)) ∧
  (∀ (k : Nat) (s : State),
    clock k s =
      { s with
        voices := (clock k s).voices
        bp := (clock k s).bp
        lp := (clock k s).lp
        extHp := (clock k s).extHp
        extLp := (clock k s).extLp
        extOut := (clock k s).extOut
        ring := (clock k s).ring
        ri := (clock k s).ri } ∧
    (clock k s).ri.toNat = (s.ri.toNat + k) % 16384)

/-- R146: CLOCKN(n) ends in the state of n CLOCK1 commands; and a CLOCK_SAMPLES that leaves rem of its dt cycles ends,
apart from `so`, `sprev`, the buffer and its result, in the state of dt − rem cycles. -/
def Obligations.CycleAccuracy : Prop :=
  (∀ (n : Int) (s : State), s.alive = true → CountOk n → ∃ t u, exec (.clockN n) s = .next t ∧
    repeatExec .clock1 n.toNat s = .next u ∧ t = { u with result := .none }) ∧
  (∀ (dt n il : Int) (buf : List Sample) (s t : State) (w rem : Nat), exec (.clockSamples dt buf n il) s = .next t →
    t.result = .counts w rem → rem ≤ dt.toNat ∧
      t = { clock (dt.toNat - rem) s with
        so := t.so, sprev := t.sprev, callerBuf := t.callerBuf, result := t.result })

/-- CLOCK_SAMPLES completes on every operand in its domain: at most n samples are written, cycles remain only when the
room is used up, the buffer keeps its length, and dt = 0 writes nothing and changes nothing (spec/41_clocking.md R145;
spec/46_sampler.md R261). -/
def Obligations.ClockSamplesCompletes : Prop :=
  ∀ (dt n il : Int) (buf : List Sample) (s : State), s.alive = true → CountOk dt → CountOk n → InterleaveOk il →
    n * il ≤ buf.length →
    ∃ t w rem, exec (.clockSamples dt buf n il) s = .next t ∧ t.result = .counts w rem ∧
      (w : Int) ≤ n ∧ (rem : Int) ≤ dt ∧ (rem ≠ 0 → (w : Int) = n) ∧ t.callerBuf.length = buf.length ∧
      (dt = 0 → t = { s with callerBuf := buf, result := .counts 0 0 })

/-- The elements of the caller's buffer that CLOCK_SAMPLES does not write: every one but those at k × interleave, for k
below the returned count (spec/20_memory.md R55; spec/46_sampler.md R260). -/
def Obligations.BufferFrame : Prop :=
  ∀ (dt n il : Int) (buf : List Sample) (s t : State) (w rem : Nat), exec (.clockSamples dt buf n il) s = .next t →
    t.result = .counts w rem → ∀ j : Nat, (∀ k, k < w → (j : Int) ≠ k * il) → t.callerBuf[j]? = buf[j]?

/-- A run whose cycles are used up, then another, is one run of both lengths: the same samples in the same order, the
same cycles left, and the same state (spec/46_sampler.md R261: "the next call continues the same sample grid"). -/
def Obligations.SplitRunsEqualOneRun : Prop :=
  ∀ (a b n m il : Int) (bufA bufB buf : List Sample) (s s' t u : State) (w w' rem : Nat), Inv s → 1 ≤ m →
    exec (.clockSamples a bufA n il) s = .next s' → s'.result = .counts w 0 →
    exec (.clockSamples b bufB m il) s' = .next t → t.result = .counts w' rem →
    exec (.clockSamples (a + b) buf (w + m) il) s = .next u →
      u = { t with callerBuf := u.callerBuf, result := .counts (w + w') rem } ∧
      (∀ k, k < w → u.callerBuf[k * il.toNat]? = s'.callerBuf[k * il.toNat]?) ∧
      (∀ k, k < w' → u.callerBuf[(w + k) * il.toNat]? = t.callerBuf[k * il.toNat]?)

/-! ## The sampler -/

/-- What CLOCK_SAMPLES does when no sample falls within its cycles (the tail: all of them run, and `so` moves back by
them without a wrap), and when one does and there is no room (no cycle runs), under every method (spec/46_sampler.md
R257 to R261; spec/70_reset_and_hazards.md R335). -/
def Obligations.TailAndFullBuffer : Prop :=
  ∀ (dt n il : Int) (buf : List Sample) (s t : State), Inv s → exec (.clockSamples dt buf n il) s = .next t →
    (dt < dtsOf s → t.result = .counts 0 0 ∧ t.callerBuf = buf ∧ t.so.toInt = s.so.toInt - dt * 2 ^ 16 ∧
      (s.method ≠ .interpolate ∨ dt = 0 → t.sprev = s.sprev) ∧
      (s.method = .interpolate → 1 ≤ dt → t.sprev.toInt = outOf (clock (dt.toNat - 1) s))) ∧
    (dtsOf s ≤ dt → n = 0 → t = { s with callerBuf := buf, result := .counts 0 dt.toNat })

/-- One sample under DECIMATE: the output after the cycles that bring the position nearest the instant
(spec/46_sampler.md R257). -/
def Obligations.DecimateSample : Prop :=
  ∀ (n il : Int) (buf : List Sample) (s t : State), s.method = .decimate → 1 ≤ n →
    exec (.clockSamples (dtsOf s) buf n il) s = .next t →
    t.result = .counts 1 0 ∧
      (t.callerBuf[0]?).map BitVec.toInt = some (outOf (clock (dtsOf s) s)) ∧
      t.so.toInt = nsoOf s % 2 ^ 16 - 2 ^ 15 ∧ t.sprev = s.sprev

/-- One sample under INTERPOLATE: between the outputs of the last two cycles, at the fraction of the position; `sprev`
takes the last output (spec/46_sampler.md R258). -/
def Obligations.InterpolateSample : Prop :=
  ∀ (n il : Int) (buf : List Sample) (s t : State), s.method = .interpolate → 1 ≤ n →
    exec (.clockSamples (dtsOf s) buf n il) s = .next t →
    let prev := outOf (clock (dtsOf s - 1) s)
    let now := outOf (clock (dtsOf s) s)
    let frac := nsoOf s % 2 ^ 16
    t.result = .counts 1 0 ∧
      (t.callerBuf[0]?).map BitVec.toInt = some (prev + frac * (now - prev) / 2 ^ 16) ∧
      t.so.toInt = frac ∧ t.sprev.toInt = now

/-- One sample under RESAMPLE: the window of the ring weighted by two rows of the table, interpolated at the fraction
between them, scaled and clamped (spec/46_sampler.md R259). The taps are free (assumption 8). -/
def Obligations.ResampleSample : Prop :=
  ∀ (n il : Int) (buf : List Sample) (s t : State) (fir : FirSet), Inv s → s.method = .resample fir → 1 ≤ n →
    exec (.clockSamples (dtsOf s) buf n il) s = .next t →
    let u := clock (dtsOf s) s
    let entry : Int → Int := fun i => (ringGet u.ring (i % 16384).toNat).toInt
    let window : Int → Nat → Int := fun base row =>
      ∑ j ∈ Finset.range fir.n, entry (base + j) * (fir.taps.getD (row * fir.n + j) 0#16).toInt
    let frac := nsoOf s % 2 ^ 16
    let row := (frac * fir.res / 2 ^ 16).toNat
    let base : Int := u.ri.toNat - fir.n
    let v1 := window base row
    let v2 := if row + 1 = fir.res then window (base - 1) 0 else window base (row + 1)
    t.result = .counts 1 0 ∧
      (t.callerBuf[0]?).map BitVec.toInt =
        some (max (-32768) (min 32767 ((v1 + frac * fir.res % 2 ^ 16 * (v2 - v1) / 2 ^ 16) / 2 ^ 15))) ∧
      t.so.toInt = frac ∧ t.sprev = s.sprev

/-- The ring holds the last cycle outputs: after k cycles, at most the ring's size, entry ri + j holds the output of
cycle j + 1, and every other entry is as before (spec/46_sampler.md R262). -/
def Obligations.RingHoldsOutputs : Prop :=
  ∀ (k : Nat) (s : State), ringWf s.ring = true → k ≤ 16384 →
    (∀ j, j < k → (ringGet (clock k s).ring ((s.ri.toNat + j) % 16384)).toInt = outOf (clock (j + 1) s)) ∧
    (∀ i, i < 16384 → (∀ j, j < k → i ≠ (s.ri.toNat + j) % 16384) →
      ringGet (clock k s).ring i = ringGet s.ring i) ∧
    (clock k s).ri.toNat = (s.ri.toNat + k) % 16384

/-- `Cps(fc, fs)` is the ratio in 16.16 fixed point, rounded to the nearest (spec/46_sampler.md R251), with its values
for two sample rates of the default clock. -/
def Obligations.CyclesPerSample : Prop :=
  (∀ fc fs : Rat, (cpsOf fc fs : Rat) ≤ fc / fs * 65536 + 1 / 2 ∧ fc / fs * 65536 + 1 / 2 < (cpsOf fc fs : Rat) + 1) ∧
  cpsOf 985248 44100 = 1464154 ∧ cpsOf 985248 48000 = 1345192

/-- R253: SET_SAMPLING_PARAMETERS answers true exactly on a valid configuration, with the effective pass frequency; it
commits it and clears the sampler's running state, and on any other it answers false and changes nothing
(spec/46_sampler.md R252, R254). -/
def Obligations.SamplingParameters : Prop :=
  ∀ (fc : Rat) (m : Int) (fs pass scale : Rat) (s : State), s.alive = true →
    (SamplingOk fc m fs pass scale → ∃ t, exec (.setSamplingParameters fc m fs pass scale) s = .next t ∧
      t = { s with
        clockFreq := fc, method := t.method, sampleFreq := fs, passFreq := t.passFreq, filterScale := scale
        cps := t.cps, so := 0#32, sprev := 0#16, ring := [], ri := 0#14, result := .flag true } ∧
      (t.cps : Int) = cpsOf fc fs ∧
      t.passFreq =
        (if m = 2 ∧ pass < 0 then (if 9 / 10 ≤ 2 * 20000 / fs then 9 / 10 * fs / 2 else 20000) else pass) ∧
      (m = 0 → t.method = .decimate) ∧ (m = 1 → t.method = .interpolate) ∧
      (m = 2 → t.method = .resample (Fir.build fc fs t.passFreq scale))) ∧
    (¬SamplingOk fc m fs pass scale →
      exec (.setSamplingParameters fc m fs pass scale) s = .next { s with result := .flag false })

/-- The sizes of the kernel, for every configuration: an odd row length, a power of two of rows, and a tap for each
entry of each row (spec/46_sampler.md R255). The lengths and the taps themselves are free
(assumption 8). Where R255 gives no size (fc = fs = 10^400, or fc / fs > 285) the model takes a size of this shape: that is
the model's choice (assumption 14). -/
def Obligations.FirSizes : Prop :=
  ∀ fc fs pass scale : Rat, (Fir.build fc fs pass scale).n % 2 = 1 ∧
    (∃ k, (Fir.build fc fs pass scale).res = 2 ^ k) ∧
    (Fir.build fc fs pass scale).taps.length = (Fir.build fc fs pass scale).n * (Fir.build fc fs pass scale).res

/-- ADJUST_SAMPLING_FREQUENCY computes the ratio anew and keeps everything else, the kernel and the running state among
it; a frequency that is not positive or whose ratio is out of range is refused (spec/46_sampler.md R256). -/
def Obligations.AdjustFrequency : Prop :=
  ∀ (fs : Rat) (s : State), s.alive = true →
    (AdjustOk fs s → ∃ t, exec (.adjustSamplingFrequency fs) s = .next t ∧
      t = { s with sampleFreq := fs, cps := t.cps, result := .none } ∧ (t.cps : Int) = cpsOf s.clockFreq fs) ∧
    (¬AdjustOk fs s → exec (.adjustSamplingFrequency fs) s = .refused .badSampleFreq)

/-! ## The oscillators -/

/-- The accumulators over one cycle: held at 0 under TEST, else advanced by the frequency modulo 2^24, and cleared when
SYNC is set and the source voice triggers in the same cycle, under both sync edges (spec/42_oscillator.md R160, R161,
R163, R171). -/
def Obligations.AccumulatorCycle : Prop :=
  ∀ (s t : State) (v : Fin 3), exec .clock1 s = .next t →
    (s.test v = true → (t.voice v).acc = 0#24) ∧
    (s.test v = false → s.sync v = true → triggers s (v + 2) → (t.voice v).acc = 0#24) ∧
    (s.test v = false → ¬(s.sync v = true ∧ triggers s (v + 2)) →
      (t.voice v).acc.toNat = ((s.voice v).acc.toNat + (s.freq v).toNat) % 2 ^ 24)

/-- The noise registers over one cycle: at the seed under TEST; shifted once when accumulator bit 19 rises in the add,
with the feedback of the noise model entering at bit 0; else unchanged (spec/42_oscillator.md R161, R172 to R174). Bits
above the width of the model are 0. -/
def Obligations.NoiseCycle : Prop :=
  ∀ (s t : State) (v : Fin 3), LfsrInWidth s → exec .clock1 s = .next t →
    let r := (s.voice v).lfsr
    let r' := (t.voice v).lfsr
    let rises := (s.voice v).acc.toNat / 2 ^ 19 % 2 = 0 ∧ addOf s v % 2 ^ 24 / 2 ^ 19 % 2 = 1
    (s.test v = true → r' = Params.noiseSeed s.variant.noiseModel) ∧
    (s.test v = false → ¬rises → r' = r) ∧
    (s.test v = false → rises →
      r'.toNat / 2 = r.toNat % 2 ^ (Params.noiseWidth s.variant.noiseModel - 1) ∧
      (s.variant.noiseModel = .doc12 →
        r'.getLsbD 0 = (r.getLsbD 11 ^^ r.getLsbD 5 ^^ r.getLsbD 3 ^^ r.getLsbD 0)) ∧
      (s.variant.noiseModel = .resid23 → r'.getLsbD 0 = (r.getLsbD 22 ^^ r.getLsbD 17)))

/-- No command but WRITE_STATE brings a noise register from a nonzero value to the lock state 0 (spec/42_oscillator.md
R173). -/
def Obligations.NoiseNeverLocks : Prop :=
  ∀ (i : Instr) (s t : State) (v : Fin 3), LfsrInWidth s → (s.voice v).lfsr ≠ 0#23 → exec i s = .next t →
    (∀ blob, i ≠ .writeState blob) → (t.voice v).lfsr ≠ 0#23

/-- The component waveforms in integers, in the normative ring mode and in the variant (spec/42_oscillator.md R164 to
R168). -/
def Obligations.ComponentWaveforms : Prop :=
  ∀ (s : State) (v : Fin 3),
    let acc := (s.voice v).acc.toNat
    let inverted := s.variant.ringMode = .triMsbXor ∧ s.ringBit v = true ∧ 2 ^ 23 ≤ (s.voice (v + 2)).acc.toNat
    (tri s v).toNat = (if (acc < 2 ^ 23 ↔ ¬inverted) then acc else 2 ^ 24 - 1 - acc) / 2 ^ 11 % 2 ^ 12 ∧
    (saw s v).toNat = acc / 2 ^ 12 ∧
    (pulse s v).toNat =
      (if (s.pw v).toNat ≤
        (if s.variant.ringMode = .pulseSign ∧ s.ringBit v = true then (tri s (v + 2)).toNat else acc / 2 ^ 12)
      then 0xFFF else 0) ∧
    (s.variant.noiseModel = .doc12 → (noise s v).toNat = (s.voice v).lfsr.toNat / 16 % 256 * 16) ∧
    (s.variant.noiseModel = .resid23 → (noise s v).toNat % 16 = 0 ∧
      ∀ j, j < 8 → (noise s v).getLsbD (4 + j) = (s.voice v).lfsr.getLsbD ([2, 4, 7, 11, 13, 16, 20, 22].getD j 0))

/-- R169: with no waveform selected the output is 0; otherwise each bit of it is set exactly when it is set in every
selected waveform. -/
def Obligations.CombinedWaveforms : Prop :=
  ∀ (s : State) (v : Fin 3),
    ((s.ctrl v).toNat < 16 → wave s v = 0#12) ∧
    (16 ≤ (s.ctrl v).toNat → ∀ j, j < 12 →
      ((wave s v).getLsbD j = true ↔
        ((s.ctrl v).getLsbD 4 = true → (tri s v).getLsbD j = true) ∧
        ((s.ctrl v).getLsbD 5 = true → (saw s v).getLsbD j = true) ∧
        ((s.ctrl v).getLsbD 6 = true → (pulse s v).getLsbD j = true) ∧
        ((s.ctrl v).getLsbD 7 = true → (noise s v).getLsbD j = true)))

/-- With frequency 0, no TEST and no SYNC, a voice's accumulator and noise register keep their values over any number of
cycles; without RING, so does its waveform (spec/42_oscillator.md R162). With RING the pulse follows the source voice,
and with SYNC the source can clear the accumulator. -/
def Obligations.ZeroFrequencyFreezes : Prop :=
  ∀ (k : Nat) (s : State) (v : Fin 3), s.freq v = 0#16 → s.test v = false → s.sync v = false →
    ((clock k s).voice v).acc = (s.voice v).acc ∧ ((clock k s).voice v).lfsr = (s.voice v).lfsr ∧
      (s.ringBit v = false → wave (clock k s) v = wave s v)

/-! ## The envelopes -/

/-- One cycle of an envelope: the rate counter with its 15-bit wrap that skips 0, the event when it equals the period of
the phase, and what the event does in Attack and in the two falling phases (spec/43_envelope.md R194 to R199). -/
def Obligations.EnvelopeCycle : Prop :=
  ∀ (s t : State) (v : Fin 3), exec .clock1 s = .next t →
    let x := s.voice v
    let y := t.voice v
    let r := if x.rc.toNat + 1 = 2 ^ 15 then 1 else x.rc.toNat + 1
    let floor := if x.phase = .decayOrSustain then (s.reg (voiceAddr v 6)).toNat / 16 * 17 else 0
    (r ≠ periodOf s v → y.rc.toNat = r ∧ y.level = x.level ∧ y.phase = x.phase ∧ y.exp = x.exp) ∧
    (r = periodOf s v → y.rc = 0#15 ∧
      (x.phase = .attack → y.exp = 0#5 ∧ y.level.toNat = min (x.level.toNat + 1) 255 ∧
        y.phase = (if 254 ≤ x.level.toNat then .decayOrSustain else .attack)) ∧
      (x.phase ≠ .attack → y.phase = x.phase ∧
        (expDivisor x.level.toNat ≤ x.exp.toNat + 1 → y.exp = 0#5 ∧
          y.level.toNat = (if floor < x.level.toNat then x.level.toNat - 1 else x.level.toNat)) ∧
        (x.exp.toNat + 1 < expDivisor x.level.toNat → y.exp.toNat = x.exp.toNat + 1 ∧ y.level = x.level)))

/-- R202: over a cycle the level does not fall in Attack and does not rise in the other phases, and moves by at most
one; no other command changes it but CREATE and RESET (to 0) and WRITE_STATE. -/
def Obligations.LevelMonotone : Prop :=
  ∀ (i : Instr) (s t : State) (v : Fin 3), exec i s = .next t →
    (i = .clock1 → (s.voice v).phase = .attack →
      (s.voice v).level.toNat ≤ (t.voice v).level.toNat ∧ (t.voice v).level.toNat ≤ (s.voice v).level.toNat + 1) ∧
    (i = .clock1 → (s.voice v).phase ≠ .attack →
      (t.voice v).level.toNat ≤ (s.voice v).level.toNat ∧ (s.voice v).level.toNat ≤ (t.voice v).level.toNat + 1) ∧
    (i = .create ∨ i = .reset → (t.voice v).level = 0#8) ∧
    (clocks i = false → i ≠ .create → i ≠ .reset → (∀ blob, i ≠ .writeState blob) →
      (t.voice v).level = (s.voice v).level)

/-- The phase of a voice changes in no other way than these: CREATE and RESET put it in Release, WRITE_STATE restores
it, a CONTROL write with a rising gate starts Attack and with a falling one Release, and clocking takes Attack to
DecayOrSustain, in the cycle that leaves the level at 255 (spec/43_envelope.md R190). -/
def Obligations.PhaseTransitions : Prop :=
  ∀ (i : Instr) (s t : State) (v : Fin 3), exec i s = .next t → (t.voice v).phase ≠ (s.voice v).phase →
    ((i = .create ∨ i = .reset) ∧ (t.voice v).phase = .release) ∨
    (∃ blob, i = .writeState blob) ∨
    (∃ d, i = wrCtrl v d ∧ s.gate v = false ∧ d.getLsbD 0 = true ∧ (t.voice v).phase = .attack) ∨
    (∃ d, i = wrCtrl v d ∧ s.gate v = true ∧ d.getLsbD 0 = false ∧ (t.voice v).phase = .release) ∨
    (clocks i = true ∧ (s.voice v).phase = .attack ∧ (t.voice v).phase = .decayOrSustain ∧
      (i = .clock1 → (t.voice v).level = 255#8))

/-- A voice in Release at level 0 stays there under every command, clocking by any number of cycles among them, but a
gate-on write to it and WRITE_STATE (spec/43_envelope.md R203). -/
def Obligations.TerminalSilence : Prop :=
  ∀ (i : Instr) (s t : State) (v : Fin 3), (s.voice v).phase = .release → (s.voice v).level = 0#8 →
    exec i s = .next t → (∀ blob, i ≠ .writeState blob) →
    (∀ d, i = wrCtrl v d → s.gate v = false → d.getLsbD 0 = false) →
    (t.voice v).phase = .release ∧ (t.voice v).level = 0#8

/-- The timing of Attack after a gate-on write, with `GATE_RESETS_COUNTER`: the level rises by one at every rate period
of the attack nibble until it reaches 255, and with it DecayOrSustain begins. With nibble 0 from level 0 that is level 1
at cycle 9 and 255 at cycle 2295 (spec/43_envelope.md R193 to R196, R204). -/
def Obligations.AttackTiming : Prop :=
  ∀ (s t : State) (v : Fin 3) (d : Byte), s.variant.gateResetsCounter = true → s.gate v = false →
    d.getLsbD 0 = true → (s.voice v).level.toNat < 255 → exec (wrCtrl v d) s = .next t →
    let p := ratePeriods.getD ((s.reg (voiceAddr v 5)).toNat / 16) 0
    ∀ c, c ≤ p * (255 - (s.voice v).level.toNat) →
      ((clock c t).voice v).level.toNat = (s.voice v).level.toNat + c / p ∧
      ((clock c t).voice v).phase =
        (if c < p * (255 - (s.voice v).level.toNat) then .attack else .decayOrSustain)

/-- The rate counter that is already past the period: it runs on to 0x7FFF, wraps to 1, and meets the period after 32768
− rc + period − 1 cycles, at most 32766; until then the envelope does not move (spec/70_reset_and_hazards.md R336). -/
def Obligations.RateCounterOvershoot : Prop :=
  ∀ (s : State) (v : Fin 3), periodOf s v < (s.voice v).rc.toNat →
    let n := 32768 - (s.voice v).rc.toNat + periodOf s v - 1
    n ≤ 32766 ∧
    (∀ c, c < n → ((clock c s).voice v).level = (s.voice v).level ∧ ((clock c s).voice v).exp = (s.voice v).exp ∧
      ((clock c s).voice v).phase = (s.voice v).phase ∧ ((clock c s).voice v).rc ≠ 0#15) ∧
    ((clock n s).voice v).rc = 0#15

/-! ## The filters -/

/-- The voice outputs and the four filter inputs, with their ranges, and voice 3 silenced by OFF3 when it is not routed
(spec/44_filter.md R220 to R222). -/
def Obligations.FilterInputs : Prop :=
  ∀ s : State,
    (∀ v, voiceOut s v = ((wave s v).toNat - 0x800 : Int) * (s.voice v).level.toNat ∧
      -522240 ≤ voiceOut s v ∧ voiceOut s v ≤ 521985) ∧
    filterIn s 0 = voiceOut s 0 / 128 ∧ filterIn s 1 = voiceOut s 1 / 128 ∧
    filterIn s 2 = (if s.off3 = true ∧ s.filt.getLsbD 2 = false then 0 else voiceOut s 2 / 128) ∧
    filterIn s 3 = s.extIn.toInt * 16 / 128 ∧
    (∀ k, k ≠ 3 → -4080 ≤ filterIn s k ∧ filterIn s k ≤ 4078) ∧
    -4096 ≤ filterIn s 3 ∧ filterIn s 3 ≤ 4095

/-- One cycle of the state-variable filter and the mixer: enabled, with both integrators reading the old band-pass and
the coefficient `min(W0_TABLE[model][fc], W0_MAX)`; disabled, with both integrators cleared. The mixer's value is seen
as the output when the external filter is disabled. The entry is the one of the
instance's tables; where CREATE did not write them out it is free (assumption 3). For every cutoff table
(spec/44_filter.md R223 to R229). -/
def Obligations.FilterCycle : Prop :=
  ∀ s t : State, exec .clock1 s = .next t →
    let entry : Nat :=
      match s.tables, s.model with
      | .unmeasured, model => Config.w0Table model s.fc
      | .given a _, .A => a[s.fc.toNat]'s.fc.isLt
      | .given _ b, .B => b[s.fc.toNat]'s.fc.isLt
    let w : Int := (min entry 105414 : Nat)
    (s.filterEn = true →
      t.bp.toInt = wrap32 (s.bp.toInt + w * cycleHp s t / 2 ^ 20) ∧
      t.lp.toInt = wrap32 (s.lp.toInt + w * s.bp.toInt / 2 ^ 20)) ∧
    (s.filterEn = false → t.bp = 0#32 ∧ t.lp = 0#32) ∧
    (s.extEn = false → t.extOut.toInt = cycleMix s t) ∧
    (s.vol = 0#4 → cycleMix s t = 0)

/-- R241 and R242: one cycle of the external filter, enabled (the high-pass, then the low-pass, whose new value is the
output) and disabled (cleared, the mixer passed through). -/
def Obligations.ExternalFilterCycle : Prop :=
  ∀ s t : State, exec .clock1 s = .next t →
    let hpOut := wrap32 (cycleMix s t - s.extHp.toInt)
    (s.extEn = true →
      t.extHp.toInt = wrap32 (s.extHp.toInt + 105 * hpOut / 2 ^ 20) ∧
      t.extLp.toInt = wrap32 (s.extLp.toInt + 409 * (hpOut - s.extLp.toInt) / 2 ^ 12) ∧
      t.extOut = t.extLp) ∧
    (s.extEn = false → t.extHp = 0#32 ∧ t.extLp = 0#32 ∧ t.extOut.toInt = cycleMix s t)

/-- The chip model reaches nothing but the filter and what the filter's output reaches (spec/44_filter.md R230). Of two
states that differ only there, every command that is done on one is done on the other, the two next states differ only
there, and only the commands that report the output or the filter's state can answer differently. -/
def Obligations.ModelReachesOnlyFilter : Prop :=
  ∀ (i : Instr) (s s' t : State), SameButFiltered s s' → exec i s = .next t →
    ∃ t', exec i s' = .next t' ∧ SameButFiltered t t' ∧
      (i ≠ .output → (∀ b, i ≠ .outputBits b) → i ≠ .readState → t'.result = t.result)

/-! ## The snapshot -/

/-- R290 and R291: READ_STATE answers the 112 bytes of the layout and changes no state. -/
def Obligations.SnapshotLayout : Prop :=
  ∀ s : State, s.alive = true → ∃ b : List Byte, exec .readState s = .next { s with result := .blob b } ∧
    (encode .readState).word = 0x800E#16 ∧ b.length = 112 ∧
    (∀ a : Fin 29, leNat b a.val 1 = (s.reg a).toNat) ∧ leNat b 29 3 = 0 ∧
    (∀ v : Fin 3,
      leNat b (32 + 16 * v.val) 3 = (s.voice v).acc.toNat ∧
      leNat b (32 + 16 * v.val + 3) 3 = (s.voice v).lfsr.toNat ∧
      leNat b (32 + 16 * v.val + 6) 1 = (s.voice v).level.toNat ∧
      leNat b (32 + 16 * v.val + 7) 1 =
        (match (s.voice v).phase with | .attack => 0 | .decayOrSustain => 1 | .release => 2) ∧
      leNat b (32 + 16 * v.val + 8) 2 = (s.voice v).rc.toNat ∧
      leNat b (32 + 16 * v.val + 10) 1 = (s.voice v).exp.toNat ∧
      leNat b (32 + 16 * v.val + 11) 5 = 0) ∧
    leNat b 80 4 = s.bp.toNat ∧ leNat b 84 4 = s.lp.toNat ∧ leNat b 88 4 = s.extHp.toNat ∧
    leNat b 92 4 = s.extLp.toNat ∧ leNat b 96 4 = s.extOut.toNat ∧ leNat b 100 2 = s.extIn.toNat ∧
    leNat b 102 4 = s.so.toNat ∧ leNat b 106 2 = s.sprev.toNat ∧ leNat b 108 4 = 0

/-- R292: WRITE_STATE restores every field of the layout from a blob of the right length with phases that exist, drops
the upper bits of the masked fields, and changes nothing else; any other blob is refused. -/
def Obligations.SnapshotRestore : Prop :=
  ∀ (b : List Byte) (s : State), s.alive = true →
    (encode (.writeState b)).word = 0x800F#16 ∧
    (BlobOk b → ∃ t, exec (.writeState b) s = .next t ∧
      t = { s with
        regs := t.regs, voices := t.voices, bp := t.bp, lp := t.lp, extHp := t.extHp, extLp := t.extLp
        extOut := t.extOut, extIn := t.extIn, so := t.so, sprev := t.sprev, result := .none } ∧
      (∀ a : Fin 29, (t.reg a).toNat = leNat b a.val 1) ∧
      (∀ v : Fin 3,
        (t.voice v).acc.toNat = leNat b (32 + 16 * v.val) 3 ∧
        (t.voice v).lfsr.toNat =
          leNat b (32 + 16 * v.val + 3) 3 % 2 ^ (Params.noiseWidth s.variant.noiseModel) ∧
        (t.voice v).level.toNat = leNat b (32 + 16 * v.val + 6) 1 ∧
        (match (t.voice v).phase with | .attack => 0 | .decayOrSustain => 1 | .release => 2) =
          leNat b (32 + 16 * v.val + 7) 1 ∧
        (t.voice v).rc.toNat = leNat b (32 + 16 * v.val + 8) 2 % 2 ^ 15 ∧
        (t.voice v).exp.toNat = leNat b (32 + 16 * v.val + 10) 1 % 2 ^ 5) ∧
      t.bp.toNat = leNat b 80 4 ∧ t.lp.toNat = leNat b 84 4 ∧ t.extHp.toNat = leNat b 88 4 ∧
      t.extLp.toNat = leNat b 92 4 ∧ t.extOut.toNat = leNat b 96 4 ∧ t.extIn.toNat = leNat b 100 2 ∧
      t.so.toNat = leNat b 102 4 ∧ t.sprev.toNat = leNat b 106 2) ∧
    (¬BlobOk b → exec (.writeState b) s = .refused .badSnapshot)

/-- The snapshot's fidelity: the blob READ_STATE answers, written into the same instance, leaves its state as it was;
and into any instance of the same configuration, it makes that instance's state the first one's but for the ring and its
index and what is the host's (spec/47_snapshot.md R293, R294). -/
def Obligations.SnapshotClones : Prop :=
  ∀ (s s' r t : State) (b : List Byte), LfsrInWidth s → SameConfig s r → exec .readState s = .next s' →
    s'.result = .blob b → exec (.writeState b) r = .next t →
    t = { s with
      ring := r.ring, ri := r.ri, cmds := r.cmds, createArgs := r.createArgs, callerBuf := r.callerBuf, result := .none }

/-- Under DECIMATE and INTERPOLATE the ring is never read: of two states that differ only in the ring and its index,
every command that is done on one is done on the other with the same answer, and the next states differ only there, or,
where the command set the sampler anew, not at all (spec/47_snapshot.md R293). -/
def Obligations.RingUnreadOutsideResample : Prop :=
  ∀ (i : Instr) (s s' t : State), SameButRing s s' → isResample s.method = false → exec i s = .next t →
    ∃ t', exec i s' = .next t' ∧ ((isResample t.method = false ∧ SameButRing t t') ∨ t' = t)

/-! ## The whole machine -/

/-- What each command may change, field by field. The registers: a register write and the commands that set the state
anew, CREATE, RESET and WRITE_STATE. The accumulator and the noise register of a voice: clocking, a CONTROL write of that
voice with TEST, and those three. The level and the exponential counter: clocking and those three. The phase: also a
CONTROL write of that voice with a gate edge; the rate counter: also one with a rising edge under `GATE_RESETS_COUNTER`.
The integrators, the external filter and its output: clocking and those three. The external input: INPUT and those
three. The sampler's position and previous sample: CLOCK_SAMPLES, SET_SAMPLING_PARAMETERS and those three; its ring and
index: clocking, SET_SAMPLING_PARAMETERS, CREATE and RESET. A configuration latch: its command and CREATE; the sampler
configuration: SET_SAMPLING_PARAMETERS, with ADJUST for the frequency and the ratio, and CREATE; `alive`: CREATE and
RELEASE (spec/10_state.md R21 to R36; spec/47_snapshot.md R292). The variant parameters and the cutoff tables: CREATE,
which is given them (spec/40_orchestrator.md R100). The host's fields are the model's own (assumptions 1 and 9): no
command changes the stream or the arguments beside the command, CLOCK_SAMPLES alone the caller's buffer, and every
command sets the result. -/
def Obligations.OnlyTheseCommandsChange : Prop :=
  ∀ (i : Instr) (s t : State), exec i s = .next t →
    let restores := i = .create ∨ i = .reset ∨ ∃ b, i = .writeState b
    let samplings := ∃ fc m fs pass scale, i = .setSamplingParameters fc m fs pass scale
    (t.variant ≠ s.variant ∨ t.tables ≠ s.tables → i = .create) ∧ t.cmds = s.cmds ∧ t.createArgs = s.createArgs ∧
    (t.regs ≠ s.regs → (∃ a d, writeRow a d = some i) ∨ restores) ∧
    (∀ v,
      ((t.voice v).acc ≠ (s.voice v).acc ∨ (t.voice v).lfsr ≠ (s.voice v).lfsr →
        clocks i = true ∨ (∃ d, i = wrCtrl v d ∧ d.getLsbD 3 = true) ∨ restores) ∧
      ((t.voice v).level ≠ (s.voice v).level ∨ (t.voice v).exp ≠ (s.voice v).exp → clocks i = true ∨ restores) ∧
      ((t.voice v).phase ≠ (s.voice v).phase →
        clocks i = true ∨ (∃ d, i = wrCtrl v d ∧ d.getLsbD 0 ≠ s.gate v) ∨ restores) ∧
      ((t.voice v).rc ≠ (s.voice v).rc →
        clocks i = true ∨
          (∃ d, i = wrCtrl v d ∧ s.gate v = false ∧ d.getLsbD 0 = true ∧ s.variant.gateResetsCounter = true) ∨
          restores)) ∧
    (t.extIn ≠ s.extIn → (∃ x, i = .input x) ∨ restores) ∧
    (t.bp ≠ s.bp ∨ t.lp ≠ s.lp ∨ t.extHp ≠ s.extHp ∨ t.extLp ≠ s.extLp ∨ t.extOut ≠ s.extOut →
      clocks i = true ∨ restores) ∧
    (t.so ≠ s.so ∨ t.sprev ≠ s.sprev → (∃ dt buf n il, i = .clockSamples dt buf n il) ∨ samplings ∨ restores) ∧
    (t.ring ≠ s.ring ∨ t.ri ≠ s.ri → clocks i = true ∨ samplings ∨ i = .create ∨ i = .reset) ∧
    (t.model ≠ s.model → i = .create ∨ ∃ m, i = .setChipModel m) ∧
    (t.filterEn ≠ s.filterEn → i = .create ∨ ∃ b, i = .enableFilter b) ∧
    (t.extEn ≠ s.extEn → i = .create ∨ ∃ b, i = .enableExtFilter b) ∧
    (t.method ≠ s.method ∨ t.clockFreq ≠ s.clockFreq ∨ t.passFreq ≠ s.passFreq ∨ t.filterScale ≠ s.filterScale →
      i = .create ∨ samplings) ∧
    (t.sampleFreq ≠ s.sampleFreq ∨ t.cps ≠ s.cps →
      i = .create ∨ (∃ fs, i = .adjustSamplingFrequency fs) ∨ samplings) ∧
    (t.alive ≠ s.alive → i = .create ∨ i = .release) ∧
    (t.callerBuf ≠ s.callerBuf → ∃ dt buf n il, i = .clockSamples dt buf n il)

/-- The invariant holds right after power-up, with every choice of configuration arguments. -/
def Obligations.PowerUpMeetsInv : Prop := 
  Inv State.reset ∧ ∀ args : Config.CreateArgs, Inv (State.created args)

/-- Every step keeps the invariant, from every state that meets it: the ring stays canonical, the noise registers within
their width, the FIR set of its size, the frequencies positive, and `cps` the ratio of the two, in range
(spec/10_state.md R24, R33, R34; spec/46_sampler.md R251). -/
def Obligations.StepKeepsInv : Prop := ∀ s t : State, Inv s → step s = .next t → Inv t
end

