-- ==== Sys2Proof/Laws/Ring.lean ====
section
/-! SUPPORT. Sys2Proof/Laws/Ring.lean: the sampler ring: reading after writing, and its canonical form. -/

namespace Sys2Proof.Machine

open Sys2Proof

theorem ringWfFrom_mono {r : Ring} {lo lo' : Nat} (h : ringWfFrom lo r = true) (hlo : lo' ≤ lo) :
    ringWfFrom lo' r = true := by
  cases r with
  | nil => rfl
  | cons p r =>
    simp only [ringWfFrom, Bool.and_eq_true, decide_eq_true_eq] at h ⊢
    exact ⟨⟨⟨by omega, h.1.1.2⟩, h.1.2⟩, h.2⟩

/-- Every operation keeps the canonical form: writing an index from `lo` on below `RINGSIZE`. -/
theorem ringSet_keeps_wfFrom {r : Ring} {lo i : Nat} {v : Sample} (h : ringWfFrom lo r = true) (hlo : lo ≤ i)
    (hi : i < Config.ringSize) : ringWfFrom lo (ringSet r i v) = true := by
  induction r generalizing lo with
  | nil =>
    unfold ringSet
    split <;> simp_all [ringWfFrom]
  | cons p r ih =>
    obtain ⟨j, w⟩ := p
    simp only [ringWfFrom, Bool.and_eq_true, decide_eq_true_eq] at h
    obtain ⟨⟨⟨h1, h2⟩, h3⟩, h4⟩ := h
    unfold ringSet
    split
    · split
      · exact ringWfFrom_mono h4 (by omega)
      · simp_all [ringWfFrom]
    · split
      · split
        · simp_all [ringWfFrom]
        · rename_i hlt hv
          simp only [ringWfFrom, Bool.and_eq_true, decide_eq_true_eq]
          exact ⟨⟨⟨hlo, hi⟩, hv⟩, ⟨⟨by omega, h2⟩, h3⟩, h4⟩
      · simp only [ringWfFrom, Bool.and_eq_true, decide_eq_true_eq]
        exact ⟨⟨⟨h1, h2⟩, h3⟩, ih h4 (by omega)⟩

theorem ringSet_keeps_wf {r : Ring} {i : Nat} {v : Sample} (h : ringWf r = true) (hi : i < Config.ringSize) :
    ringWf (ringSet r i v) = true :=
  ringSet_keeps_wfFrom h (Nat.zero_le i) hi

theorem ringGet_below {r : Ring} {lo i : Nat} (h : ringWfFrom lo r = true) (hi : i < lo) : ringGet r i = 0#16 := by
  cases r with
  | nil => rfl
  | cons p r =>
    simp only [ringWfFrom, Bool.and_eq_true, decide_eq_true_eq] at h
    unfold ringGet
    rw [if_neg (by omega), if_pos (by omega)]

/-- Reading after writing, in a canonical ring. -/
theorem ringGet_ringSet {r : Ring} {lo : Nat} (h : ringWfFrom lo r = true) (i j : Nat) (v : Sample) :
    ringGet (ringSet r i v) j = if j = i then v else ringGet r j := by
  induction r generalizing lo with
  | nil =>
    unfold ringSet
    split
    · simp_all [ringGet]
    · simp only [ringGet]
      split <;> simp
  | cons p r ih =>
    obtain ⟨k, w⟩ := p
    simp only [ringWfFrom, Bool.and_eq_true, decide_eq_true_eq] at h
    obtain ⟨⟨⟨h1, h2⟩, h3⟩, h4⟩ := h
    unfold ringSet
    split
    · rename_i hik
      subst hik
      split
      · rename_i hv
        by_cases hj : j = i
        · rw [if_pos hj, hv, hj, ringGet_below h4 (by omega)]
        · rw [if_neg hj]
          conv => rhs; unfold ringGet
          rw [if_neg hj]
          split
          · rw [ringGet_below h4 (by omega)]
          · rfl
      · by_cases hj : j = i
        · simp [ringGet, hj]
        · simp [ringGet, hj]
    · rename_i hik
      split
      · rename_i hlt
        split
        · rename_i hv
          by_cases hj : j = i
          · subst hj
            rw [if_pos rfl, hv]
            unfold ringGet
            rw [if_neg hik, if_pos hlt]
          · rw [if_neg hj]
        · by_cases hj : j = i
          · simp [ringGet, hj]
          · by_cases hji : j < i
            · simp only [ringGet, if_neg hj, if_pos hji, if_neg (show ¬j = k by omega), if_pos (show j < k by omega)]
            · simp only [ringGet, if_neg hj, if_neg hji]
      · rename_i hlt
        by_cases hjk : j = k
        · simp only [ringGet, hjk, if_true, if_neg (show ¬k = i by omega)]
        · simp only [ringGet, if_neg hjk]
          by_cases hjl : j < k
          · simp only [if_pos hjl, if_neg (show ¬j = i by omega)]
          · simp only [if_neg hjl]
            exact ih h4

/-- Equal contents make equal canonical rings. -/
theorem ring_ext {r q : Ring} {lo : Nat} (hr : ringWfFrom lo r = true) (hq : ringWfFrom lo q = true)
    (h : ∀ i, ringGet r i = ringGet q i) : r = q := by
  induction r generalizing q lo with
  | nil =>
    cases q with
    | nil => rfl
    | cons p q =>
      simp only [ringWfFrom, Bool.and_eq_true, decide_eq_true_eq] at hq
      have := h p.1
      simp only [ringGet, if_true] at this
      exact absurd this.symm hq.1.2
  | cons p r ih =>
    cases q with
    | nil =>
      simp only [ringWfFrom, Bool.and_eq_true, decide_eq_true_eq] at hr
      have := h p.1
      simp only [ringGet, if_true] at this
      exact absurd this hr.1.2
    | cons p' q =>
      simp only [ringWfFrom, Bool.and_eq_true, decide_eq_true_eq] at hr hq
      have hp : p.1 = p'.1 := by
        rcases Nat.lt_trichotomy p.1 p'.1 with hlt | heq | hgt
        · have := h p.1
          simp only [ringGet, if_true, if_neg (show ¬p.1 = p'.1 by omega), if_pos hlt] at this
          exact absurd this hr.1.2
        · exact heq
        · have := h p'.1
          simp only [ringGet, if_true, if_neg (show ¬p'.1 = p.1 by omega), if_pos hgt] at this
          exact absurd this.symm hq.1.2
      have hw : p.2 = p'.2 := by
        have := h p.1
        simpa only [ringGet, hp, if_true] using this
      have htail : r = q := by
        refine ih hr.2 (by rw [hp]; exact hq.2) fun i => ?_
        by_cases hi : i < p.1 + 1
        · rw [ringGet_below hr.2 hi, ringGet_below hq.2 (by omega)]
        · have := h i
          simpa only [ringGet, if_neg (show ¬i = p.1 by omega), if_neg (show ¬i < p.1 by omega),
            if_neg (show ¬i = p'.1 by omega), if_neg (show ¬i < p'.1 by omega)] using this
      rw [htail, Prod.ext hp hw]

end Sys2Proof.Machine
end

