-- ==== Sys2Proof/Laws/State.lean ====
section
/-! SUPPORT. Sys2Proof/Laws/State.lean: what each update of the state does to each field, one lemma a field. -/

namespace Sys2Proof.Machine

open Sys2Proof

/-! ## `withResult` -/

@[simp] theorem State.withResult_cmds (r : Result) (s : State) : (s.withResult r).cmds = s.cmds :=
  rfl

@[simp] theorem State.withResult_result (r : Result) (s : State) : (s.withResult r).result = r :=
  rfl

@[simp] theorem State.withResult_callerBuf (r : Result) (s : State) : (s.withResult r).callerBuf = s.callerBuf :=
  rfl

@[simp] theorem State.withResult_createArgs (r : Result) (s : State) : (s.withResult r).createArgs = s.createArgs :=
  rfl

@[simp] theorem State.withResult_variant (r : Result) (s : State) : (s.withResult r).variant = s.variant :=
  rfl

@[simp] theorem State.withResult_tables (r : Result) (s : State) : (s.withResult r).tables = s.tables :=
  rfl

@[simp] theorem State.withResult_alive (r : Result) (s : State) : (s.withResult r).alive = s.alive :=
  rfl

@[simp] theorem State.withResult_regs (r : Result) (s : State) : (s.withResult r).regs = s.regs :=
  rfl

@[simp] theorem State.withResult_voices (r : Result) (s : State) : (s.withResult r).voices = s.voices :=
  rfl

@[simp] theorem State.withResult_bp (r : Result) (s : State) : (s.withResult r).bp = s.bp :=
  rfl

@[simp] theorem State.withResult_lp (r : Result) (s : State) : (s.withResult r).lp = s.lp :=
  rfl

@[simp] theorem State.withResult_extHp (r : Result) (s : State) : (s.withResult r).extHp = s.extHp :=
  rfl

@[simp] theorem State.withResult_extLp (r : Result) (s : State) : (s.withResult r).extLp = s.extLp :=
  rfl

@[simp] theorem State.withResult_extOut (r : Result) (s : State) : (s.withResult r).extOut = s.extOut :=
  rfl

@[simp] theorem State.withResult_extIn (r : Result) (s : State) : (s.withResult r).extIn = s.extIn :=
  rfl

@[simp] theorem State.withResult_so (r : Result) (s : State) : (s.withResult r).so = s.so :=
  rfl

@[simp] theorem State.withResult_sprev (r : Result) (s : State) : (s.withResult r).sprev = s.sprev :=
  rfl

@[simp] theorem State.withResult_ring (r : Result) (s : State) : (s.withResult r).ring = s.ring :=
  rfl

@[simp] theorem State.withResult_ri (r : Result) (s : State) : (s.withResult r).ri = s.ri :=
  rfl

@[simp] theorem State.withResult_model (r : Result) (s : State) : (s.withResult r).model = s.model :=
  rfl

@[simp] theorem State.withResult_filterEn (r : Result) (s : State) : (s.withResult r).filterEn = s.filterEn :=
  rfl

@[simp] theorem State.withResult_extEn (r : Result) (s : State) : (s.withResult r).extEn = s.extEn :=
  rfl

@[simp] theorem State.withResult_method (r : Result) (s : State) : (s.withResult r).method = s.method :=
  rfl

@[simp] theorem State.withResult_clockFreq (r : Result) (s : State) : (s.withResult r).clockFreq = s.clockFreq :=
  rfl

@[simp] theorem State.withResult_sampleFreq (r : Result) (s : State) : (s.withResult r).sampleFreq = s.sampleFreq :=
  rfl

@[simp] theorem State.withResult_passFreq (r : Result) (s : State) : (s.withResult r).passFreq = s.passFreq :=
  rfl

@[simp] theorem State.withResult_filterScale (r : Result) (s : State) : (s.withResult r).filterScale = s.filterScale :=
  rfl

@[simp] theorem State.withResult_cps (r : Result) (s : State) : (s.withResult r).cps = s.cps :=
  rfl

/-! ## `withReg` -/

@[simp] theorem State.withReg_cmds (a : Fin 29) (d : Byte) (s : State) : (s.withReg a d).cmds = s.cmds :=
  rfl

@[simp] theorem State.withReg_result (a : Fin 29) (d : Byte) (s : State) : (s.withReg a d).result = s.result :=
  rfl

@[simp] theorem State.withReg_callerBuf (a : Fin 29) (d : Byte) (s : State) : (s.withReg a d).callerBuf = s.callerBuf :=
  rfl

@[simp] theorem State.withReg_createArgs (a : Fin 29) (d : Byte) (s : State) : (s.withReg a d).createArgs = s.createArgs :=
  rfl

@[simp] theorem State.withReg_variant (a : Fin 29) (d : Byte) (s : State) : (s.withReg a d).variant = s.variant :=
  rfl

@[simp] theorem State.withReg_tables (a : Fin 29) (d : Byte) (s : State) : (s.withReg a d).tables = s.tables :=
  rfl

@[simp] theorem State.withReg_alive (a : Fin 29) (d : Byte) (s : State) : (s.withReg a d).alive = s.alive :=
  rfl

@[simp] theorem State.withReg_regs (a : Fin 29) (d : Byte) (s : State) : (s.withReg a d).regs = s.regs.set a d :=
  rfl

@[simp] theorem State.withReg_voices (a : Fin 29) (d : Byte) (s : State) : (s.withReg a d).voices = s.voices :=
  rfl

@[simp] theorem State.withReg_bp (a : Fin 29) (d : Byte) (s : State) : (s.withReg a d).bp = s.bp :=
  rfl

@[simp] theorem State.withReg_lp (a : Fin 29) (d : Byte) (s : State) : (s.withReg a d).lp = s.lp :=
  rfl

@[simp] theorem State.withReg_extHp (a : Fin 29) (d : Byte) (s : State) : (s.withReg a d).extHp = s.extHp :=
  rfl

@[simp] theorem State.withReg_extLp (a : Fin 29) (d : Byte) (s : State) : (s.withReg a d).extLp = s.extLp :=
  rfl

@[simp] theorem State.withReg_extOut (a : Fin 29) (d : Byte) (s : State) : (s.withReg a d).extOut = s.extOut :=
  rfl

@[simp] theorem State.withReg_extIn (a : Fin 29) (d : Byte) (s : State) : (s.withReg a d).extIn = s.extIn :=
  rfl

@[simp] theorem State.withReg_so (a : Fin 29) (d : Byte) (s : State) : (s.withReg a d).so = s.so :=
  rfl

@[simp] theorem State.withReg_sprev (a : Fin 29) (d : Byte) (s : State) : (s.withReg a d).sprev = s.sprev :=
  rfl

@[simp] theorem State.withReg_ring (a : Fin 29) (d : Byte) (s : State) : (s.withReg a d).ring = s.ring :=
  rfl

@[simp] theorem State.withReg_ri (a : Fin 29) (d : Byte) (s : State) : (s.withReg a d).ri = s.ri :=
  rfl

@[simp] theorem State.withReg_model (a : Fin 29) (d : Byte) (s : State) : (s.withReg a d).model = s.model :=
  rfl

@[simp] theorem State.withReg_filterEn (a : Fin 29) (d : Byte) (s : State) : (s.withReg a d).filterEn = s.filterEn :=
  rfl

@[simp] theorem State.withReg_extEn (a : Fin 29) (d : Byte) (s : State) : (s.withReg a d).extEn = s.extEn :=
  rfl

@[simp] theorem State.withReg_method (a : Fin 29) (d : Byte) (s : State) : (s.withReg a d).method = s.method :=
  rfl

@[simp] theorem State.withReg_clockFreq (a : Fin 29) (d : Byte) (s : State) : (s.withReg a d).clockFreq = s.clockFreq :=
  rfl

@[simp] theorem State.withReg_sampleFreq (a : Fin 29) (d : Byte) (s : State) : (s.withReg a d).sampleFreq = s.sampleFreq :=
  rfl

@[simp] theorem State.withReg_passFreq (a : Fin 29) (d : Byte) (s : State) : (s.withReg a d).passFreq = s.passFreq :=
  rfl

@[simp] theorem State.withReg_filterScale (a : Fin 29) (d : Byte) (s : State) : (s.withReg a d).filterScale = s.filterScale :=
  rfl

@[simp] theorem State.withReg_cps (a : Fin 29) (d : Byte) (s : State) : (s.withReg a d).cps = s.cps :=
  rfl

/-! ## `withVoice` -/

@[simp] theorem State.withVoice_cmds (v : Fin 3) (x : Voice) (s : State) : (s.withVoice v x).cmds = s.cmds :=
  rfl

@[simp] theorem State.withVoice_result (v : Fin 3) (x : Voice) (s : State) : (s.withVoice v x).result = s.result :=
  rfl

@[simp] theorem State.withVoice_callerBuf (v : Fin 3) (x : Voice) (s : State) : (s.withVoice v x).callerBuf = s.callerBuf :=
  rfl

@[simp] theorem State.withVoice_createArgs (v : Fin 3) (x : Voice) (s : State) : (s.withVoice v x).createArgs = s.createArgs :=
  rfl

@[simp] theorem State.withVoice_variant (v : Fin 3) (x : Voice) (s : State) : (s.withVoice v x).variant = s.variant :=
  rfl

@[simp] theorem State.withVoice_tables (v : Fin 3) (x : Voice) (s : State) : (s.withVoice v x).tables = s.tables :=
  rfl

@[simp] theorem State.withVoice_alive (v : Fin 3) (x : Voice) (s : State) : (s.withVoice v x).alive = s.alive :=
  rfl

@[simp] theorem State.withVoice_regs (v : Fin 3) (x : Voice) (s : State) : (s.withVoice v x).regs = s.regs :=
  rfl

@[simp] theorem State.withVoice_voices (v : Fin 3) (x : Voice) (s : State) : (s.withVoice v x).voices = s.voices.set v x :=
  rfl

@[simp] theorem State.withVoice_bp (v : Fin 3) (x : Voice) (s : State) : (s.withVoice v x).bp = s.bp :=
  rfl

@[simp] theorem State.withVoice_lp (v : Fin 3) (x : Voice) (s : State) : (s.withVoice v x).lp = s.lp :=
  rfl

@[simp] theorem State.withVoice_extHp (v : Fin 3) (x : Voice) (s : State) : (s.withVoice v x).extHp = s.extHp :=
  rfl

@[simp] theorem State.withVoice_extLp (v : Fin 3) (x : Voice) (s : State) : (s.withVoice v x).extLp = s.extLp :=
  rfl

@[simp] theorem State.withVoice_extOut (v : Fin 3) (x : Voice) (s : State) : (s.withVoice v x).extOut = s.extOut :=
  rfl

@[simp] theorem State.withVoice_extIn (v : Fin 3) (x : Voice) (s : State) : (s.withVoice v x).extIn = s.extIn :=
  rfl

@[simp] theorem State.withVoice_so (v : Fin 3) (x : Voice) (s : State) : (s.withVoice v x).so = s.so :=
  rfl

@[simp] theorem State.withVoice_sprev (v : Fin 3) (x : Voice) (s : State) : (s.withVoice v x).sprev = s.sprev :=
  rfl

@[simp] theorem State.withVoice_ring (v : Fin 3) (x : Voice) (s : State) : (s.withVoice v x).ring = s.ring :=
  rfl

@[simp] theorem State.withVoice_ri (v : Fin 3) (x : Voice) (s : State) : (s.withVoice v x).ri = s.ri :=
  rfl

@[simp] theorem State.withVoice_model (v : Fin 3) (x : Voice) (s : State) : (s.withVoice v x).model = s.model :=
  rfl

@[simp] theorem State.withVoice_filterEn (v : Fin 3) (x : Voice) (s : State) : (s.withVoice v x).filterEn = s.filterEn :=
  rfl

@[simp] theorem State.withVoice_extEn (v : Fin 3) (x : Voice) (s : State) : (s.withVoice v x).extEn = s.extEn :=
  rfl

@[simp] theorem State.withVoice_method (v : Fin 3) (x : Voice) (s : State) : (s.withVoice v x).method = s.method :=
  rfl

@[simp] theorem State.withVoice_clockFreq (v : Fin 3) (x : Voice) (s : State) : (s.withVoice v x).clockFreq = s.clockFreq :=
  rfl

@[simp] theorem State.withVoice_sampleFreq (v : Fin 3) (x : Voice) (s : State) : (s.withVoice v x).sampleFreq = s.sampleFreq :=
  rfl

@[simp] theorem State.withVoice_passFreq (v : Fin 3) (x : Voice) (s : State) : (s.withVoice v x).passFreq = s.passFreq :=
  rfl

@[simp] theorem State.withVoice_filterScale (v : Fin 3) (x : Voice) (s : State) : (s.withVoice v x).filterScale = s.filterScale :=
  rfl

@[simp] theorem State.withVoice_cps (v : Fin 3) (x : Voice) (s : State) : (s.withVoice v x).cps = s.cps :=
  rfl

/-! ## `withVoices` -/

@[simp] theorem State.withVoices_cmds (f : Fin 3 → Voice) (s : State) : (s.withVoices f).cmds = s.cmds :=
  rfl

@[simp] theorem State.withVoices_result (f : Fin 3 → Voice) (s : State) : (s.withVoices f).result = s.result :=
  rfl

@[simp] theorem State.withVoices_callerBuf (f : Fin 3 → Voice) (s : State) : (s.withVoices f).callerBuf = s.callerBuf :=
  rfl

@[simp] theorem State.withVoices_createArgs (f : Fin 3 → Voice) (s : State) : (s.withVoices f).createArgs = s.createArgs :=
  rfl

@[simp] theorem State.withVoices_variant (f : Fin 3 → Voice) (s : State) : (s.withVoices f).variant = s.variant :=
  rfl

@[simp] theorem State.withVoices_tables (f : Fin 3 → Voice) (s : State) : (s.withVoices f).tables = s.tables :=
  rfl

@[simp] theorem State.withVoices_alive (f : Fin 3 → Voice) (s : State) : (s.withVoices f).alive = s.alive :=
  rfl

@[simp] theorem State.withVoices_regs (f : Fin 3 → Voice) (s : State) : (s.withVoices f).regs = s.regs :=
  rfl

@[simp] theorem State.withVoices_voices (f : Fin 3 → Voice) (s : State) : (s.withVoices f).voices = Voices.ofFn f :=
  rfl

@[simp] theorem State.withVoices_bp (f : Fin 3 → Voice) (s : State) : (s.withVoices f).bp = s.bp :=
  rfl

@[simp] theorem State.withVoices_lp (f : Fin 3 → Voice) (s : State) : (s.withVoices f).lp = s.lp :=
  rfl

@[simp] theorem State.withVoices_extHp (f : Fin 3 → Voice) (s : State) : (s.withVoices f).extHp = s.extHp :=
  rfl

@[simp] theorem State.withVoices_extLp (f : Fin 3 → Voice) (s : State) : (s.withVoices f).extLp = s.extLp :=
  rfl

@[simp] theorem State.withVoices_extOut (f : Fin 3 → Voice) (s : State) : (s.withVoices f).extOut = s.extOut :=
  rfl

@[simp] theorem State.withVoices_extIn (f : Fin 3 → Voice) (s : State) : (s.withVoices f).extIn = s.extIn :=
  rfl

@[simp] theorem State.withVoices_so (f : Fin 3 → Voice) (s : State) : (s.withVoices f).so = s.so :=
  rfl

@[simp] theorem State.withVoices_sprev (f : Fin 3 → Voice) (s : State) : (s.withVoices f).sprev = s.sprev :=
  rfl

@[simp] theorem State.withVoices_ring (f : Fin 3 → Voice) (s : State) : (s.withVoices f).ring = s.ring :=
  rfl

@[simp] theorem State.withVoices_ri (f : Fin 3 → Voice) (s : State) : (s.withVoices f).ri = s.ri :=
  rfl

@[simp] theorem State.withVoices_model (f : Fin 3 → Voice) (s : State) : (s.withVoices f).model = s.model :=
  rfl

@[simp] theorem State.withVoices_filterEn (f : Fin 3 → Voice) (s : State) : (s.withVoices f).filterEn = s.filterEn :=
  rfl

@[simp] theorem State.withVoices_extEn (f : Fin 3 → Voice) (s : State) : (s.withVoices f).extEn = s.extEn :=
  rfl

@[simp] theorem State.withVoices_method (f : Fin 3 → Voice) (s : State) : (s.withVoices f).method = s.method :=
  rfl

@[simp] theorem State.withVoices_clockFreq (f : Fin 3 → Voice) (s : State) : (s.withVoices f).clockFreq = s.clockFreq :=
  rfl

@[simp] theorem State.withVoices_sampleFreq (f : Fin 3 → Voice) (s : State) : (s.withVoices f).sampleFreq = s.sampleFreq :=
  rfl

@[simp] theorem State.withVoices_passFreq (f : Fin 3 → Voice) (s : State) : (s.withVoices f).passFreq = s.passFreq :=
  rfl

@[simp] theorem State.withVoices_filterScale (f : Fin 3 → Voice) (s : State) : (s.withVoices f).filterScale = s.filterScale :=
  rfl

@[simp] theorem State.withVoices_cps (f : Fin 3 → Voice) (s : State) : (s.withVoices f).cps = s.cps :=
  rfl

/-! ## `memWrite` -/

@[simp] theorem State.memWrite_cmds (i : Nat) (x : Sample) (s : State) : (s.memWrite i x).cmds = s.cmds :=
  rfl

@[simp] theorem State.memWrite_result (i : Nat) (x : Sample) (s : State) : (s.memWrite i x).result = s.result :=
  rfl

@[simp] theorem State.memWrite_callerBuf (i : Nat) (x : Sample) (s : State) : (s.memWrite i x).callerBuf = s.callerBuf.set i x :=
  rfl

@[simp] theorem State.memWrite_createArgs (i : Nat) (x : Sample) (s : State) : (s.memWrite i x).createArgs = s.createArgs :=
  rfl

@[simp] theorem State.memWrite_variant (i : Nat) (x : Sample) (s : State) : (s.memWrite i x).variant = s.variant :=
  rfl

@[simp] theorem State.memWrite_tables (i : Nat) (x : Sample) (s : State) : (s.memWrite i x).tables = s.tables :=
  rfl

@[simp] theorem State.memWrite_alive (i : Nat) (x : Sample) (s : State) : (s.memWrite i x).alive = s.alive :=
  rfl

@[simp] theorem State.memWrite_regs (i : Nat) (x : Sample) (s : State) : (s.memWrite i x).regs = s.regs :=
  rfl

@[simp] theorem State.memWrite_voices (i : Nat) (x : Sample) (s : State) : (s.memWrite i x).voices = s.voices :=
  rfl

@[simp] theorem State.memWrite_bp (i : Nat) (x : Sample) (s : State) : (s.memWrite i x).bp = s.bp :=
  rfl

@[simp] theorem State.memWrite_lp (i : Nat) (x : Sample) (s : State) : (s.memWrite i x).lp = s.lp :=
  rfl

@[simp] theorem State.memWrite_extHp (i : Nat) (x : Sample) (s : State) : (s.memWrite i x).extHp = s.extHp :=
  rfl

@[simp] theorem State.memWrite_extLp (i : Nat) (x : Sample) (s : State) : (s.memWrite i x).extLp = s.extLp :=
  rfl

@[simp] theorem State.memWrite_extOut (i : Nat) (x : Sample) (s : State) : (s.memWrite i x).extOut = s.extOut :=
  rfl

@[simp] theorem State.memWrite_extIn (i : Nat) (x : Sample) (s : State) : (s.memWrite i x).extIn = s.extIn :=
  rfl

@[simp] theorem State.memWrite_so (i : Nat) (x : Sample) (s : State) : (s.memWrite i x).so = s.so :=
  rfl

@[simp] theorem State.memWrite_sprev (i : Nat) (x : Sample) (s : State) : (s.memWrite i x).sprev = s.sprev :=
  rfl

@[simp] theorem State.memWrite_ring (i : Nat) (x : Sample) (s : State) : (s.memWrite i x).ring = s.ring :=
  rfl

@[simp] theorem State.memWrite_ri (i : Nat) (x : Sample) (s : State) : (s.memWrite i x).ri = s.ri :=
  rfl

@[simp] theorem State.memWrite_model (i : Nat) (x : Sample) (s : State) : (s.memWrite i x).model = s.model :=
  rfl

@[simp] theorem State.memWrite_filterEn (i : Nat) (x : Sample) (s : State) : (s.memWrite i x).filterEn = s.filterEn :=
  rfl

@[simp] theorem State.memWrite_extEn (i : Nat) (x : Sample) (s : State) : (s.memWrite i x).extEn = s.extEn :=
  rfl

@[simp] theorem State.memWrite_method (i : Nat) (x : Sample) (s : State) : (s.memWrite i x).method = s.method :=
  rfl

@[simp] theorem State.memWrite_clockFreq (i : Nat) (x : Sample) (s : State) : (s.memWrite i x).clockFreq = s.clockFreq :=
  rfl

@[simp] theorem State.memWrite_sampleFreq (i : Nat) (x : Sample) (s : State) : (s.memWrite i x).sampleFreq = s.sampleFreq :=
  rfl

@[simp] theorem State.memWrite_passFreq (i : Nat) (x : Sample) (s : State) : (s.memWrite i x).passFreq = s.passFreq :=
  rfl

@[simp] theorem State.memWrite_filterScale (i : Nat) (x : Sample) (s : State) : (s.memWrite i x).filterScale = s.filterScale :=
  rfl

@[simp] theorem State.memWrite_cps (i : Nat) (x : Sample) (s : State) : (s.memWrite i x).cps = s.cps :=
  rfl

/-! ## `pushCommand` -/

@[simp] theorem State.pushCommand_cmds (c : Command) (s : State) : (s.pushCommand c).cmds = c :: s.cmds :=
  rfl

@[simp] theorem State.pushCommand_result (c : Command) (s : State) : (s.pushCommand c).result = s.result :=
  rfl

@[simp] theorem State.pushCommand_callerBuf (c : Command) (s : State) : (s.pushCommand c).callerBuf = s.callerBuf :=
  rfl

@[simp] theorem State.pushCommand_createArgs (c : Command) (s : State) : (s.pushCommand c).createArgs = s.createArgs :=
  rfl

@[simp] theorem State.pushCommand_variant (c : Command) (s : State) : (s.pushCommand c).variant = s.variant :=
  rfl

@[simp] theorem State.pushCommand_tables (c : Command) (s : State) : (s.pushCommand c).tables = s.tables :=
  rfl

@[simp] theorem State.pushCommand_alive (c : Command) (s : State) : (s.pushCommand c).alive = s.alive :=
  rfl

@[simp] theorem State.pushCommand_regs (c : Command) (s : State) : (s.pushCommand c).regs = s.regs :=
  rfl

@[simp] theorem State.pushCommand_voices (c : Command) (s : State) : (s.pushCommand c).voices = s.voices :=
  rfl

@[simp] theorem State.pushCommand_bp (c : Command) (s : State) : (s.pushCommand c).bp = s.bp :=
  rfl

@[simp] theorem State.pushCommand_lp (c : Command) (s : State) : (s.pushCommand c).lp = s.lp :=
  rfl

@[simp] theorem State.pushCommand_extHp (c : Command) (s : State) : (s.pushCommand c).extHp = s.extHp :=
  rfl

@[simp] theorem State.pushCommand_extLp (c : Command) (s : State) : (s.pushCommand c).extLp = s.extLp :=
  rfl

@[simp] theorem State.pushCommand_extOut (c : Command) (s : State) : (s.pushCommand c).extOut = s.extOut :=
  rfl

@[simp] theorem State.pushCommand_extIn (c : Command) (s : State) : (s.pushCommand c).extIn = s.extIn :=
  rfl

@[simp] theorem State.pushCommand_so (c : Command) (s : State) : (s.pushCommand c).so = s.so :=
  rfl

@[simp] theorem State.pushCommand_sprev (c : Command) (s : State) : (s.pushCommand c).sprev = s.sprev :=
  rfl

@[simp] theorem State.pushCommand_ring (c : Command) (s : State) : (s.pushCommand c).ring = s.ring :=
  rfl

@[simp] theorem State.pushCommand_ri (c : Command) (s : State) : (s.pushCommand c).ri = s.ri :=
  rfl

@[simp] theorem State.pushCommand_model (c : Command) (s : State) : (s.pushCommand c).model = s.model :=
  rfl

@[simp] theorem State.pushCommand_filterEn (c : Command) (s : State) : (s.pushCommand c).filterEn = s.filterEn :=
  rfl

@[simp] theorem State.pushCommand_extEn (c : Command) (s : State) : (s.pushCommand c).extEn = s.extEn :=
  rfl

@[simp] theorem State.pushCommand_method (c : Command) (s : State) : (s.pushCommand c).method = s.method :=
  rfl

@[simp] theorem State.pushCommand_clockFreq (c : Command) (s : State) : (s.pushCommand c).clockFreq = s.clockFreq :=
  rfl

@[simp] theorem State.pushCommand_sampleFreq (c : Command) (s : State) : (s.pushCommand c).sampleFreq = s.sampleFreq :=
  rfl

@[simp] theorem State.pushCommand_passFreq (c : Command) (s : State) : (s.pushCommand c).passFreq = s.passFreq :=
  rfl

@[simp] theorem State.pushCommand_filterScale (c : Command) (s : State) : (s.pushCommand c).filterScale = s.filterScale :=
  rfl

@[simp] theorem State.pushCommand_cps (c : Command) (s : State) : (s.pushCommand c).cps = s.cps :=
  rfl

/-! ## `ringPush` -/

@[simp] theorem ringPush_cmds (s : State) : (ringPush s).cmds = s.cmds :=
  rfl

@[simp] theorem ringPush_result (s : State) : (ringPush s).result = s.result :=
  rfl

@[simp] theorem ringPush_callerBuf (s : State) : (ringPush s).callerBuf = s.callerBuf :=
  rfl

@[simp] theorem ringPush_createArgs (s : State) : (ringPush s).createArgs = s.createArgs :=
  rfl

@[simp] theorem ringPush_variant (s : State) : (ringPush s).variant = s.variant :=
  rfl

@[simp] theorem ringPush_tables (s : State) : (ringPush s).tables = s.tables :=
  rfl

@[simp] theorem ringPush_alive (s : State) : (ringPush s).alive = s.alive :=
  rfl

@[simp] theorem ringPush_regs (s : State) : (ringPush s).regs = s.regs :=
  rfl

@[simp] theorem ringPush_voices (s : State) : (ringPush s).voices = s.voices :=
  rfl

@[simp] theorem ringPush_bp (s : State) : (ringPush s).bp = s.bp :=
  rfl

@[simp] theorem ringPush_lp (s : State) : (ringPush s).lp = s.lp :=
  rfl

@[simp] theorem ringPush_extHp (s : State) : (ringPush s).extHp = s.extHp :=
  rfl

@[simp] theorem ringPush_extLp (s : State) : (ringPush s).extLp = s.extLp :=
  rfl

@[simp] theorem ringPush_extOut (s : State) : (ringPush s).extOut = s.extOut :=
  rfl

@[simp] theorem ringPush_extIn (s : State) : (ringPush s).extIn = s.extIn :=
  rfl

@[simp] theorem ringPush_so (s : State) : (ringPush s).so = s.so :=
  rfl

@[simp] theorem ringPush_sprev (s : State) : (ringPush s).sprev = s.sprev :=
  rfl

@[simp] theorem ringPush_ring (s : State) : (ringPush s).ring = ringSet s.ring s.ri.toNat (outSample s) :=
  rfl

@[simp] theorem ringPush_ri (s : State) : (ringPush s).ri = s.ri + 1#14 :=
  rfl

@[simp] theorem ringPush_model (s : State) : (ringPush s).model = s.model :=
  rfl

@[simp] theorem ringPush_filterEn (s : State) : (ringPush s).filterEn = s.filterEn :=
  rfl

@[simp] theorem ringPush_extEn (s : State) : (ringPush s).extEn = s.extEn :=
  rfl

@[simp] theorem ringPush_method (s : State) : (ringPush s).method = s.method :=
  rfl

@[simp] theorem ringPush_clockFreq (s : State) : (ringPush s).clockFreq = s.clockFreq :=
  rfl

@[simp] theorem ringPush_sampleFreq (s : State) : (ringPush s).sampleFreq = s.sampleFreq :=
  rfl

@[simp] theorem ringPush_passFreq (s : State) : (ringPush s).passFreq = s.passFreq :=
  rfl

@[simp] theorem ringPush_filterScale (s : State) : (ringPush s).filterScale = s.filterScale :=
  rfl

@[simp] theorem ringPush_cps (s : State) : (ringPush s).cps = s.cps :=
  rfl

end Sys2Proof.Machine
end

