-- ==== Sys2Proof/Laws/Voices.lean ====
section
/-! SUPPORT. Sys2Proof/Laws/Voices.lean: reading one voice or one register after an update. -/

namespace Sys2Proof.Machine

open Sys2Proof

@[simp] theorem Voices.get_ofFn (f : Fin 3 → Voice) (v : Fin 3) : (Voices.ofFn f).get v = f v := by
  fin_cases v <;> rfl

@[simp] theorem Voices.get_set (vs : Voices) (v u : Fin 3) (x : Voice) :
    (vs.set v x).get u = if u = v then x else vs.get u := by
  simp [Voices.set]

theorem Voices.ofFn_get (vs : Voices) : Voices.ofFn vs.get = vs := rfl

theorem Voices.ext_get {vs ws : Voices} (h : ∀ v, vs.get v = ws.get v) : vs = ws := by
  rw [← Voices.ofFn_get vs, ← Voices.ofFn_get ws, funext h]

@[simp] theorem Voices.set_get (vs : Voices) (v : Fin 3) : vs.set v (vs.get v) = vs :=
  Voices.ext_get fun u => by
    rw [Voices.get_set]
    split
    · rename_i h
      rw [h]
    · rfl

@[simp] theorem State.withVoices_voice (f : Fin 3 → Voice) (s : State) (v : Fin 3) :
    (s.withVoices f).voice v = f v :=
  Voices.get_ofFn f v

@[simp] theorem State.withVoice_voice (v u : Fin 3) (x : Voice) (s : State) :
    (s.withVoice v x).voice u = if u = v then x else s.voice u :=
  Voices.get_set s.voices v u x

/-- The store of WRITE: one cell changes (spec/10_state.md R21). -/
@[simp] theorem State.withReg_reg (a b : Fin 29) (d : Byte) (s : State) :
    (s.withReg a d).reg b = if b = a then d else s.reg b := by
  show (s.regs.set a.val d)[b.val] = if b = a then d else s.regs[b.val]
  rw [Vector.getElem_set]
  simp only [Fin.ext_iff, eq_comm]

@[simp] theorem State.withReg_voice (a : Fin 29) (d : Byte) (s : State) (v : Fin 3) :
    (s.withReg a d).voice v = s.voice v := rfl

@[simp] theorem State.withVoice_reg (v : Fin 3) (x : Voice) (s : State) (a : Fin 29) :
    (s.withVoice v x).reg a = s.reg a := rfl

@[simp] theorem State.withVoices_reg (f : Fin 3 → Voice) (s : State) (a : Fin 29) :
    (s.withVoices f).reg a = s.reg a := rfl

@[simp] theorem State.withResult_reg (r : Result) (s : State) (a : Fin 29) : (s.withResult r).reg a = s.reg a := rfl

@[simp] theorem State.withResult_voice (r : Result) (s : State) (v : Fin 3) :
    (s.withResult r).voice v = s.voice v := rfl

/-- Two states with the same cells have the same register file. -/
theorem State.regs_ext {s t : State} (h : ∀ a, s.reg a = t.reg a) : s.regs = t.regs :=
  Vector.ext fun i hi => h ⟨i, hi⟩

end Sys2Proof.Machine
end

