-- ==== Sys2Proof/Laws/Cycle.lean ====
section
/-! SUPPORT. Sys2Proof/Laws/Cycle.lean: what a cycle changes and what it reads; clocking by a sum of counts. -/

namespace Sys2Proof.Machine

open Sys2Proof

/-! ## The voices -/

@[simp] theorem oscStage_voice (s : State) (v : Fin 3) : (oscStage s).voice v = oscAdvance s v :=
  Voices.get_ofFn _ v

@[simp] theorem envStage_voice (s : State) (v : Fin 3) : (envStage s).voice v = envStep s v :=
  Voices.get_ofFn _ v

@[simp] theorem syncApply_voice (trig : Fin 3 → Bool) (s : State) (v : Fin 3) :
    (syncApply trig s).voice v = syncVoice trig s v :=
  Voices.get_ofFn _ v

/-- Stages 1 to 3 change the voices alone. -/
theorem voiceStages_frame (s : State) : voiceStages s = { s with voices := (voiceStages s).voices } := rfl

/-! ## The outputs, by the two enables -/

theorem outputStages_on_on {s : State} (hf : s.filterEn = true) (he : s.extEn = true) :
    outputStages s =
      ringPush (extEnabled (filterEnabled (cutoffCoeff s) s).2 (filterEnabled (cutoffCoeff s) s).1) := by
  unfold outputStages
  rw [filterStep, if_pos hf]
  exact congrArg ringPush (if_pos he)

theorem outputStages_on_off {s : State} (hf : s.filterEn = true) (he : s.extEn = false) :
    outputStages s =
      ringPush (extDisabled (filterEnabled (cutoffCoeff s) s).2 (filterEnabled (cutoffCoeff s) s).1) := by
  unfold outputStages
  rw [filterStep, if_pos hf]
  exact congrArg ringPush (if_neg (Bool.eq_false_iff.mp he))

theorem outputStages_off_on {s : State} (hf : s.filterEn = false) (he : s.extEn = true) :
    outputStages s = ringPush (extEnabled (filterDisabled s).2 (filterDisabled s).1) := by
  unfold outputStages
  rw [filterStep, if_neg (Bool.eq_false_iff.mp hf)]
  exact congrArg ringPush (if_pos he)

theorem outputStages_off_off {s : State} (hf : s.filterEn = false) (he : s.extEn = false) :
    outputStages s = ringPush (extDisabled (filterDisabled s).2 (filterDisabled s).1) := by
  unfold outputStages
  rw [filterStep, if_neg (Bool.eq_false_iff.mp hf)]
  exact congrArg ringPush (if_neg (Bool.eq_false_iff.mp he))

/-- Stages 4 to 6 change the filters, the output and the ring alone; the ring takes the new output at the old index
(spec/46_sampler.md R262). -/
theorem outputStages_frame (s : State) :
    outputStages s =
      { s with
        bp := (outputStages s).bp
        lp := (outputStages s).lp
        extHp := (outputStages s).extHp
        extLp := (outputStages s).extLp
        extOut := (outputStages s).extOut
        ring := ringSet s.ring s.ri.toNat (outSample (outputStages s))
        ri := s.ri + 1#14 } := by
  rcases Bool.eq_false_or_eq_true s.filterEn with hf | hf <;>
    rcases Bool.eq_false_or_eq_true s.extEn with he | he
  · rw [outputStages_on_on hf he]
    rfl
  · rw [outputStages_on_off hf he]
    rfl
  · rw [outputStages_off_on hf he]
    rfl
  · rw [outputStages_off_off hf he]
    rfl

/-- A cycle changes the voices, the filters, the output and the ring, and nothing else. -/
theorem cycleStep_frame (s : State) :
    cycleStep s =
      { s with
        voices := (voiceStages s).voices
        bp := (cycleStep s).bp
        lp := (cycleStep s).lp
        extHp := (cycleStep s).extHp
        extLp := (cycleStep s).extLp
        extOut := (cycleStep s).extOut
        ring := ringSet s.ring s.ri.toNat (outSample (cycleStep s))
        ri := s.ri + 1#14 } :=
  outputStages_frame (voiceStages s)

/-- The parts of the state that a cycle neither reads nor writes: the host's side, the sampler's position and previous
sample, and the sampler configuration. -/
structure Bystanders where
  cmds        : List Command
  result      : Result
  callerBuf   : List Sample
  alive       : Bool
  so          : S32
  sprev       : Sample
  method      : SampleMethod
  clockFreq   : Rat
  sampleFreq  : Rat
  passFreq    : Rat
  filterScale : Rat
  cps         : Nat

/-- The state with other bystanders. -/
def State.withBystanders (b : Bystanders) (s : State) : State :=
  { s with
    cmds := b.cmds
    result := b.result
    callerBuf := b.callerBuf
    alive := b.alive
    so := b.so
    sprev := b.sprev
    method := b.method
    clockFreq := b.clockFreq
    sampleFreq := b.sampleFreq
    passFreq := b.passFreq
    filterScale := b.filterScale
    cps := b.cps }

/-- The bystanders of a state. -/
def State.bystanders (s : State) : Bystanders :=
  { cmds := s.cmds
    result := s.result
    callerBuf := s.callerBuf
    alive := s.alive
    so := s.so
    sprev := s.sprev
    method := s.method
    clockFreq := s.clockFreq
    sampleFreq := s.sampleFreq
    passFreq := s.passFreq
    filterScale := s.filterScale
    cps := s.cps }

theorem outputStages_withBystanders (b : Bystanders) (s : State) :
    outputStages (s.withBystanders b) = (outputStages s).withBystanders b := by
  rcases Bool.eq_false_or_eq_true s.filterEn with hf | hf <;>
    rcases Bool.eq_false_or_eq_true s.extEn with he | he
  · rw [outputStages_on_on hf he, outputStages_on_on (s := s.withBystanders b) hf he]
    rfl
  · rw [outputStages_on_off hf he, outputStages_on_off (s := s.withBystanders b) hf he]
    rfl
  · rw [outputStages_off_on hf he, outputStages_off_on (s := s.withBystanders b) hf he]
    rfl
  · rw [outputStages_off_off hf he, outputStages_off_off (s := s.withBystanders b) hf he]
    rfl

/-- A cycle does not look at the bystanders. -/
theorem cycleStep_withBystanders (b : Bystanders) (s : State) :
    cycleStep (s.withBystanders b) = (cycleStep s).withBystanders b :=
  outputStages_withBystanders b (voiceStages s)

/-! ## Clocking (spec/41_clocking.md R142) -/

@[simp] theorem clock_zero (s : State) : clock 0 s = s := rfl

theorem clock_succ (k : Nat) (s : State) : clock (k + 1) s = clock k (cycleStep s) := rfl

theorem clock_add (a b : Nat) (s : State) : clock (a + b) s = clock b (clock a s) := by
  induction a generalizing s with
  | zero => rw [Nat.zero_add, clock_zero]
  | succ a ih => rw [Nat.succ_add, clock_succ, clock_succ, ih]

theorem clock_succ_last (k : Nat) (s : State) : clock (k + 1) s = cycleStep (clock k s) :=
  clock_add k 1 s

theorem clock_withBystanders (b : Bystanders) (k : Nat) (s : State) :
    clock k (s.withBystanders b) = (clock k s).withBystanders b := by
  induction k generalizing s with
  | zero => rfl
  | succ k ih => rw [clock_succ, clock_succ, cycleStep_withBystanders, ih]

/-- Clocking changes the voices, the filters, the output and the ring, and nothing else. -/
theorem clock_frame (k : Nat) (s : State) :
    clock k s =
      { s with
        voices := (clock k s).voices
        bp := (clock k s).bp
        lp := (clock k s).lp
        extHp := (clock k s).extHp
        extLp := (clock k s).extLp
        extOut := (clock k s).extOut
        ring := (clock k s).ring
        ri := (clock k s).ri } := by
  induction k with
  | zero => rfl
  | succ k ih =>
    rw [clock_succ_last, cycleStep_frame (clock k s), ih]

/-- Clocking and an update of the bystanders commute. -/
theorem clock_update (f : Bystanders → Bystanders) (k : Nat) (s : State) :
    clock k (s.withBystanders (f s.bystanders)) = (clock k s).withBystanders (f (clock k s).bystanders) := by
  have h : (clock k s).bystanders = s.bystanders := by
    rw [clock_frame]
    rfl
  rw [clock_withBystanders, h]

theorem clock_with_sprev (x : Sample) (k : Nat) (s : State) :
    clock k { s with sprev := x } = { clock k s with sprev := x } :=
  clock_update (fun b => { b with sprev := x }) k s

theorem clock_with_so (x : S32) (k : Nat) (s : State) : clock k { s with so := x } = { clock k s with so := x } :=
  clock_update (fun b => { b with so := x }) k s

theorem clock_with_so_sprev (x : S32) (y : Sample) (k : Nat) (s : State) :
    clock k { s with so := x, sprev := y } = { clock k s with so := x, sprev := y } :=
  clock_update (fun b => { b with so := x, sprev := y }) k s

theorem clock_with_callerBuf (x : List Sample) (k : Nat) (s : State) :
    clock k { s with callerBuf := x } = { clock k s with callerBuf := x } :=
  clock_update (fun b => { b with callerBuf := x }) k s

theorem clock_with_side (x : List Sample) (r : Result) (k : Nat) (s : State) :
    clock k { s with callerBuf := x, result := r } = { clock k s with callerBuf := x, result := r } :=
  clock_update (fun b => { b with callerBuf := x, result := r }) k s

theorem clock_with_result (x : Result) (k : Nat) (s : State) :
    clock k { s with result := x } = { clock k s with result := x } :=
  clock_update (fun b => { b with result := x }) k s

/-- What holds of every cycle's result, given that it held before, holds after clocking. -/
theorem clock_induct {P : State → Prop} (hstep : ∀ s, P s → P (cycleStep s)) (k : Nat) {s : State} (h : P s) :
    P (clock k s) := by
  induction k generalizing s with
  | zero => exact h
  | succ k ih => exact ih (hstep s h)

@[simp] theorem cycleStep_cmds (s : State) : (cycleStep s).cmds = s.cmds := by rw [cycleStep_frame]

@[simp] theorem clock_cmds (k : Nat) (s : State) : (clock k s).cmds = s.cmds := by rw [clock_frame]

@[simp] theorem cycleStep_result (s : State) : (cycleStep s).result = s.result := by rw [cycleStep_frame]

@[simp] theorem clock_result (k : Nat) (s : State) : (clock k s).result = s.result := by rw [clock_frame]

@[simp] theorem cycleStep_callerBuf (s : State) : (cycleStep s).callerBuf = s.callerBuf := by rw [cycleStep_frame]

@[simp] theorem clock_callerBuf (k : Nat) (s : State) : (clock k s).callerBuf = s.callerBuf := by rw [clock_frame]

@[simp] theorem cycleStep_createArgs (s : State) : (cycleStep s).createArgs = s.createArgs := by rw [cycleStep_frame]

@[simp] theorem clock_createArgs (k : Nat) (s : State) : (clock k s).createArgs = s.createArgs := by rw [clock_frame]

@[simp] theorem cycleStep_variant (s : State) : (cycleStep s).variant = s.variant := by rw [cycleStep_frame]

@[simp] theorem clock_variant (k : Nat) (s : State) : (clock k s).variant = s.variant := by rw [clock_frame]

@[simp] theorem cycleStep_tables (s : State) : (cycleStep s).tables = s.tables := by rw [cycleStep_frame]

@[simp] theorem clock_tables (k : Nat) (s : State) : (clock k s).tables = s.tables := by rw [clock_frame]

@[simp] theorem cycleStep_alive (s : State) : (cycleStep s).alive = s.alive := by rw [cycleStep_frame]

@[simp] theorem clock_alive (k : Nat) (s : State) : (clock k s).alive = s.alive := by rw [clock_frame]

@[simp] theorem cycleStep_regs (s : State) : (cycleStep s).regs = s.regs := by rw [cycleStep_frame]

@[simp] theorem clock_regs (k : Nat) (s : State) : (clock k s).regs = s.regs := by rw [clock_frame]

@[simp] theorem cycleStep_extIn (s : State) : (cycleStep s).extIn = s.extIn := by rw [cycleStep_frame]

@[simp] theorem clock_extIn (k : Nat) (s : State) : (clock k s).extIn = s.extIn := by rw [clock_frame]

@[simp] theorem cycleStep_so (s : State) : (cycleStep s).so = s.so := by rw [cycleStep_frame]

@[simp] theorem clock_so (k : Nat) (s : State) : (clock k s).so = s.so := by rw [clock_frame]

@[simp] theorem cycleStep_sprev (s : State) : (cycleStep s).sprev = s.sprev := by rw [cycleStep_frame]

@[simp] theorem clock_sprev (k : Nat) (s : State) : (clock k s).sprev = s.sprev := by rw [clock_frame]

@[simp] theorem cycleStep_model (s : State) : (cycleStep s).model = s.model := by rw [cycleStep_frame]

@[simp] theorem clock_model (k : Nat) (s : State) : (clock k s).model = s.model := by rw [clock_frame]

@[simp] theorem cycleStep_filterEn (s : State) : (cycleStep s).filterEn = s.filterEn := by rw [cycleStep_frame]

@[simp] theorem clock_filterEn (k : Nat) (s : State) : (clock k s).filterEn = s.filterEn := by rw [clock_frame]

@[simp] theorem cycleStep_extEn (s : State) : (cycleStep s).extEn = s.extEn := by rw [cycleStep_frame]

@[simp] theorem clock_extEn (k : Nat) (s : State) : (clock k s).extEn = s.extEn := by rw [clock_frame]

@[simp] theorem cycleStep_method (s : State) : (cycleStep s).method = s.method := by rw [cycleStep_frame]

@[simp] theorem clock_method (k : Nat) (s : State) : (clock k s).method = s.method := by rw [clock_frame]

@[simp] theorem cycleStep_clockFreq (s : State) : (cycleStep s).clockFreq = s.clockFreq := by rw [cycleStep_frame]

@[simp] theorem clock_clockFreq (k : Nat) (s : State) : (clock k s).clockFreq = s.clockFreq := by rw [clock_frame]

@[simp] theorem cycleStep_sampleFreq (s : State) : (cycleStep s).sampleFreq = s.sampleFreq := by rw [cycleStep_frame]

@[simp] theorem clock_sampleFreq (k : Nat) (s : State) : (clock k s).sampleFreq = s.sampleFreq := by rw [clock_frame]

@[simp] theorem cycleStep_passFreq (s : State) : (cycleStep s).passFreq = s.passFreq := by rw [cycleStep_frame]

@[simp] theorem clock_passFreq (k : Nat) (s : State) : (clock k s).passFreq = s.passFreq := by rw [clock_frame]

@[simp] theorem cycleStep_filterScale (s : State) : (cycleStep s).filterScale = s.filterScale := by rw [cycleStep_frame]

@[simp] theorem clock_filterScale (k : Nat) (s : State) : (clock k s).filterScale = s.filterScale := by rw [clock_frame]

@[simp] theorem cycleStep_cps (s : State) : (cycleStep s).cps = s.cps := by rw [cycleStep_frame]

@[simp] theorem clock_cps (k : Nat) (s : State) : (clock k s).cps = s.cps := by rw [clock_frame]

@[simp] theorem cycleStep_voices (s : State) : (cycleStep s).voices = (voiceStages s).voices := by rw [cycleStep_frame]

@[simp] theorem cycleStep_ri (s : State) : (cycleStep s).ri = s.ri + 1#14 := by rw [cycleStep_frame]

theorem cycleStep_ring (s : State) :
    (cycleStep s).ring = ringSet s.ring s.ri.toNat (outSample (cycleStep s)) := by
  conv => lhs; rw [cycleStep_frame]

theorem cycleStep_voice (s : State) (v : Fin 3) : (cycleStep s).voice v = (voiceStages s).voice v :=
  congrArg (fun vs => Voices.get vs v) (cycleStep_voices s)

end Sys2Proof.Machine
end

