-- ==== Sys2Proof/Laws/Decode.lean ====
section
/-! SUPPORT. Sys2Proof/Laws/Decode.lean: the fields of a command word: of the words the encoder writes, and as numbers;
and what the decoder answers, class by class. -/

namespace Sys2Proof

open Sys2Proof.Machine

/-! ## The fields of the encoder's words -/

@[simp] theorem busWriteWord_bit13 (a : BitVec 5) (d : Byte) : bit13 (busWriteWord a d) = 0#1 := by
  unfold bit13 busWriteWord
  ext j hj
  simp only [BitVec.getElem_extractLsb', BitVec.getLsbD_append, BitVec.getLsbD_zero, BitVec.getElem_zero]
  rw [if_neg (by omega), if_neg (by omega)]

@[simp] theorem busWriteWord_class (a : BitVec 5) (d : Byte) : classField (busWriteWord a d) = 0#2 := by
  unfold classField busWriteWord
  ext j hj
  simp only [BitVec.getElem_extractLsb', BitVec.getLsbD_append, BitVec.getLsbD_zero, BitVec.getElem_zero]
  rw [if_neg (by omega), if_neg (by omega)]

@[simp] theorem busWriteWord_addr (a : BitVec 5) (d : Byte) : addrField (busWriteWord a d) = a := by
  unfold addrField busWriteWord
  ext j hj
  simp only [BitVec.getElem_extractLsb', BitVec.getLsbD_append]
  rw [if_neg (by omega), if_pos (by omega), Nat.add_sub_cancel_left, BitVec.getLsbD_eq_getElem hj]

@[simp] theorem busWriteWord_lowByte (a : BitVec 5) (d : Byte) : lowByte (busWriteWord a d) = d := by
  unfold lowByte busWriteWord
  ext j hj
  simp only [BitVec.getElem_extractLsb', BitVec.getLsbD_append, Nat.zero_add]
  rw [if_pos hj, BitVec.getLsbD_eq_getElem hj]

@[simp] theorem busReadWord_bit13 (a : BitVec 5) : bit13 (busReadWord a) = 0#1 := by
  unfold bit13 busReadWord
  ext j hj
  simp only [BitVec.getElem_extractLsb', BitVec.getLsbD_append, BitVec.getElem_zero]
  rw [if_neg (by omega), if_neg (by omega)]
  interval_cases j
  rfl

@[simp] theorem busReadWord_class (a : BitVec 5) : classField (busReadWord a) = 1#2 := by
  unfold classField busReadWord
  ext j hj
  simp only [BitVec.getElem_extractLsb', BitVec.getLsbD_append]
  rw [if_neg (by omega), if_neg (by omega)]
  interval_cases j <;> simp

@[simp] theorem busReadWord_addr (a : BitVec 5) : addrField (busReadWord a) = a := by
  unfold addrField busReadWord
  ext j hj
  simp only [BitVec.getElem_extractLsb', BitVec.getLsbD_append]
  rw [if_neg (by omega), if_pos (by omega), Nat.add_sub_cancel_left, BitVec.getLsbD_eq_getElem hj]

@[simp] theorem busReadWord_lowByte (a : BitVec 5) : lowByte (busReadWord a) = 0#8 := by
  unfold lowByte busReadWord
  ext j hj
  simp only [BitVec.getElem_extractLsb', BitVec.getLsbD_append, Nat.zero_add]
  rw [if_pos hj, BitVec.getLsbD_eq_getElem hj]

@[simp] theorem hostWord_bit13 (o : Byte) : bit13 (hostWord o) = 0#1 := by
  unfold bit13 hostWord
  ext j hj
  simp only [BitVec.getElem_extractLsb', BitVec.getLsbD_append, BitVec.getElem_zero]
  rw [if_neg (by omega), if_neg (by omega)]
  interval_cases j
  rfl

@[simp] theorem hostWord_class (o : Byte) : classField (hostWord o) = 2#2 := by
  unfold classField hostWord
  ext j hj
  simp only [BitVec.getElem_extractLsb', BitVec.getLsbD_append]
  rw [if_neg (by omega), if_neg (by omega)]
  interval_cases j <;> simp

@[simp] theorem hostWord_addr (o : Byte) : addrField (hostWord o) = 0#5 := by
  unfold addrField hostWord
  ext j hj
  simp only [BitVec.getElem_extractLsb', BitVec.getLsbD_append, BitVec.getLsbD_zero, BitVec.getElem_zero]
  rw [if_neg (by omega), if_pos (by omega)]

@[simp] theorem hostWord_lowByte (o : Byte) : lowByte (hostWord o) = o := by
  unfold lowByte hostWord
  ext j hj
  simp only [BitVec.getElem_extractLsb', BitVec.getLsbD_append, Nat.zero_add]
  rw [if_pos hj, BitVec.getLsbD_eq_getElem hj]

/-! ## The fields as numbers -/

theorem classField_toNat (w : Word) : (classField w).toNat = w.toNat / 2 ^ 14 := by
  have := w.isLt
  simp only [classField, BitVec.extractLsb'_toNat, Nat.shiftRight_eq_div_pow]
  omega

theorem bit13_toNat (w : Word) : (bit13 w).toNat = w.toNat / 2 ^ 13 % 2 := by
  simp only [bit13, BitVec.extractLsb'_toNat, Nat.shiftRight_eq_div_pow, pow_one]

theorem addrField_toNat (w : Word) : (addrField w).toNat = w.toNat / 2 ^ 8 % 32 := by
  simp only [addrField, BitVec.extractLsb'_toNat, Nat.shiftRight_eq_div_pow]

theorem lowByte_toNat (w : Word) : (lowByte w).toNat = w.toNat % 256 := by
  simp only [lowByte, BitVec.extractLsb'_toNat, Nat.shiftRight_eq_div_pow, pow_zero, Nat.div_one]

theorem busWriteWord_toNat (a : BitVec 5) (d : Byte) : (busWriteWord a d).toNat = 256 * a.toNat + d.toNat := by
  have h1 := busWriteWord_class a d
  have h2 := busWriteWord_bit13 a d
  have h3 := busWriteWord_addr a d
  have h4 := busWriteWord_lowByte a d
  rw [← BitVec.toNat_inj] at h1 h2 h3 h4
  rw [classField_toNat] at h1
  rw [bit13_toNat] at h2
  rw [addrField_toNat] at h3
  rw [lowByte_toNat] at h4
  have := (busWriteWord a d).isLt
  simp only [BitVec.toNat_ofNat] at h1 h2
  omega

theorem busReadWord_toNat (a : BitVec 5) : (busReadWord a).toNat = 0x4000 + 256 * a.toNat := by
  have h1 := congrArg BitVec.toNat (busReadWord_class a)
  have h2 := congrArg BitVec.toNat (busReadWord_bit13 a)
  have h3 := congrArg BitVec.toNat (busReadWord_addr a)
  have h4 := congrArg BitVec.toNat (busReadWord_lowByte a)
  rw [classField_toNat] at h1
  rw [bit13_toNat] at h2
  rw [addrField_toNat] at h3
  rw [lowByte_toNat] at h4
  have := (busReadWord a).isLt
  simp only [BitVec.toNat_ofNat] at h1 h2 h4
  omega

theorem hostWord_toNat (o : Byte) : (hostWord o).toNat = 0x8000 + o.toNat := by
  have h1 := congrArg BitVec.toNat (hostWord_class o)
  have h2 := congrArg BitVec.toNat (hostWord_bit13 o)
  have h3 := congrArg BitVec.toNat (hostWord_addr o)
  have h4 := congrArg BitVec.toNat (hostWord_lowByte o)
  rw [classField_toNat] at h1
  rw [bit13_toNat] at h2
  rw [addrField_toNat] at h3
  rw [lowByte_toNat] at h4
  have := (hostWord o).isLt
  simp only [BitVec.toNat_ofNat] at h1 h2 h3
  omega

/-! ## What the decoder answers, by class -/

theorem decode_bit13 {c : Command} (h : bit13 c.word = 1#1) : decode c = .error .reservedEncoding := by
  rw [decode, if_pos h]

theorem decode_busWrite {c : Command} (h13 : bit13 c.word ≠ 1#1) (h : classField c.word = 0#2) :
    decode c = busInstr (writeRow (addrField c.word).toNat (lowByte c.word)) c.operands := by
  rw [decode, if_neg h13, if_pos h]

theorem decode_busRead {c : Command} (h13 : bit13 c.word ≠ 1#1) (h : classField c.word = 1#2) :
    decode c =
      if lowByte c.word = 0#8 then busInstr (readRow (addrField c.word).toNat) c.operands
      else .error .reservedEncoding := by
  rw [decode, if_neg h13, if_neg (by rw [h]; decide), if_pos h]

theorem decode_host {c : Command} (h13 : bit13 c.word ≠ 1#1) (h : classField c.word = 2#2) :
    decode c =
      if addrField c.word = 0#5 then hostRow (lowByte c.word).toNat c.operands
      else .error .reservedEncoding := by
  rw [decode, if_neg h13, if_neg (by rw [h]; decide), if_neg (by rw [h]; decide), if_pos h]

theorem decode_class3 {c : Command} (h13 : bit13 c.word ≠ 1#1) (h : classField c.word = 3#2) :
    decode c = .error .reservedEncoding := by
  rw [decode, if_neg h13, if_neg (by rw [h]; decide), if_neg (by rw [h]; decide), if_neg (by rw [h]; decide)]

theorem decode_busWriteWord (a : BitVec 5) (d : Byte) (ops : Operands) :
    decode { word := busWriteWord a d, operands := ops } = busInstr (writeRow a.toNat d) ops := by
  have h13 : bit13 (busWriteWord a d) ≠ 1#1 := by
    rw [busWriteWord_bit13]
    decide
  have h := decode_busWrite (c := { word := busWriteWord a d, operands := ops }) h13 (busWriteWord_class a d)
  simp only [busWriteWord_addr, busWriteWord_lowByte] at h
  exact h

theorem decode_busReadWord (a : BitVec 5) (ops : Operands) :
    decode { word := busReadWord a, operands := ops } = busInstr (readRow a.toNat) ops := by
  have h13 : bit13 (busReadWord a) ≠ 1#1 := by
    rw [busReadWord_bit13]
    decide
  have h := decode_busRead (c := { word := busReadWord a, operands := ops }) h13 (busReadWord_class a)
  simp only [busReadWord_addr, busReadWord_lowByte, if_true] at h
  exact h

theorem decode_hostWord (o : Byte) (ops : Operands) :
    decode { word := hostWord o, operands := ops } = hostRow o.toNat ops := by
  have h13 : bit13 (hostWord o) ≠ 1#1 := by
    rw [hostWord_bit13]
    decide
  have h := decode_host (c := { word := hostWord o, operands := ops }) h13 (hostWord_class o)
  simp only [hostWord_addr, hostWord_lowByte, if_true] at h
  exact h

/-- The write rows are the addresses of the map. -/
theorem writeRow_isSome (a : Nat) (d : Byte) : (writeRow a d).isSome = true ↔ a < 29 := by
  constructor
  · intro h
    by_contra hn
    obtain ⟨k, rfl⟩ : ∃ k, a = k + 29 := ⟨a - 29, by omega⟩
    exact absurd h (by simp [writeRow])
  · intro h
    interval_cases a <;> rfl

/-- The read rows are the addresses of the map. -/
theorem readRow_isSome (a : Nat) : (readRow a).isSome = true ↔ a < 29 := by
  constructor
  · intro h
    by_contra hn
    obtain ⟨k, rfl⟩ : ∃ k, a = k + 29 := ⟨a - 29, by omega⟩
    exact absurd h (by simp [readRow])
  · intro h
    interval_cases a <;> rfl

/-- A write row's instruction is encoded at its address. -/
theorem encode_writeRow {a : Nat} {d : Byte} {i : Instr} (h : writeRow a d = some i) :
    encode i = { word := busWriteWord (BitVec.ofNat 5 a) d, operands := .bare } := by
  have ha := (writeRow_isSome a d).mp (by rw [h]; rfl)
  interval_cases a <;> (cases h; rfl)

/-- A read row's instruction is encoded at its address. -/
theorem encode_readRow {a : Nat} {i : Instr} (h : readRow a = some i) :
    encode i = { word := busReadWord (BitVec.ofNat 5 a), operands := .bare } := by
  have ha := (readRow_isSome a).mp (by rw [h]; rfl)
  interval_cases a <;> (cases h; rfl)

/-- A host row's instruction is encoded with its opcode. -/
theorem encode_hostRow {o : Nat} {ops : Operands} {i : Instr} (h : hostRow o ops = .ok i) :
    o < 16 ∧ (encode i).word = hostWord (BitVec.ofNat 8 o) := by
  have ho : o < 16 := by
    by_contra hn
    obtain ⟨k, rfl⟩ : ∃ k, o = k + 16 := ⟨o - 16, by omega⟩
    exact absurd h (by simp [hostRow])
  refine ⟨ho, ?_⟩
  interval_cases o <;> cases ops <;> first | cases h; rfl | cases h

end Sys2Proof
end

