-- ==== Sys2Proof/Laws/Operands.lean ====
section
/-! SUPPORT. Sys2Proof/Laws/Operands.lean: the field decoders as numbers (spec/30_encoding.md R77 to R83). -/

namespace Sys2Proof.Machine

open Sys2Proof

theorem append_toNat {m n : Nat} (x : BitVec m) (y : BitVec n) : (x ++ y).toNat = x.toNat * 2 ^ n + y.toNat := by
  rw [BitVec.toNat_append, Nat.shiftLeft_eq, Nat.mul_comm, ← Nat.two_pow_add_eq_or_of_lt y.isLt]

theorem lowNibble_toNat (x : Byte) : (x.extractLsb' 0 4).toNat = x.toNat % 16 := by
  simp only [BitVec.extractLsb'_toNat, Nat.shiftRight_zero]

theorem highNibble_toNat (x : Byte) : (x.extractLsb' 4 4).toNat = x.toNat / 16 := by
  have := x.isLt
  simp only [BitVec.extractLsb'_toNat, Nat.shiftRight_eq_div_pow]
  omega

theorem freq_toNat (s : State) (v : Fin 3) :
    (s.freq v).toNat = (s.reg (voiceAddr v 1)).toNat * 256 + (s.reg (voiceAddr v 0)).toNat :=
  append_toNat _ _

theorem pw_toNat (s : State) (v : Fin 3) :
    (s.pw v).toNat = (s.reg (voiceAddr v 3)).toNat % 16 * 256 + (s.reg (voiceAddr v 2)).toNat := by
  rw [State.pw, append_toNat, lowNibble_toNat]
  rfl

theorem fc_toNat (s : State) : s.fc.toNat = (s.reg 22).toNat * 8 + (s.reg 21).toNat % 8 := by
  rw [State.fc, append_toNat, BitVec.extractLsb'_toNat, Nat.shiftRight_zero]
  rfl

theorem sel_toNat (s : State) (v : Fin 3) : (s.sel v).toNat = (s.ctrl v).toNat / 16 := highNibble_toNat _

theorem attack_toNat (s : State) (v : Fin 3) : (s.attack v).toNat = (s.reg (voiceAddr v 5)).toNat / 16 :=
  highNibble_toNat _

theorem decay_toNat (s : State) (v : Fin 3) : (s.decay v).toNat = (s.reg (voiceAddr v 5)).toNat % 16 :=
  lowNibble_toNat _

theorem sustain_toNat (s : State) (v : Fin 3) : (s.sustain v).toNat = (s.reg (voiceAddr v 6)).toNat / 16 :=
  highNibble_toNat _

theorem release_toNat (s : State) (v : Fin 3) : (s.release v).toNat = (s.reg (voiceAddr v 6)).toNat % 16 :=
  lowNibble_toNat _

theorem res_toNat (s : State) : s.res.toNat = (s.reg 23).toNat / 16 := highNibble_toNat _

theorem filt_toNat (s : State) : s.filt.toNat = (s.reg 23).toNat % 16 := lowNibble_toNat _

theorem vol_toNat (s : State) : s.vol.toNat = (s.reg 24).toNat % 16 := lowNibble_toNat _

end Sys2Proof.Machine
end

