-- ==== Sys2Proof/Laws/Oscillator.lean ====
section
/-! SUPPORT. Sys2Proof/Laws/Oscillator.lean: the accumulator and the noise register of a voice over one cycle, the sync
trigger, and the width and the lock state of the noise register (spec/42_oscillator.md). -/

namespace Sys2Proof.Machine

open Sys2Proof Sys2Proof.Safety

/-- A bit as arithmetic. -/
theorem getLsbD_eq_div {w : Nat} (x : BitVec w) (i : Nat) : x.getLsbD i = decide (x.toNat / 2 ^ i % 2 = 1) := by
  rw [BitVec.getLsbD, Nat.testBit_eq_decide_div_mod_eq]

/-! ## A voice over one cycle -/

/-- The envelope stage leaves the oscillator's two fields alone (spec/41_clocking.md R140). -/
theorem envStep_acc_lfsr (s : State) (v : Fin 3) :
    (envStep s v).acc = (s.voice v).acc ∧ (envStep s v).lfsr = (s.voice v).lfsr := by
  unfold envStep rateEvent attackEvent decayEvent releaseEvent fallEvent
  simp only
  split
  · split
    · exact ⟨rfl, rfl⟩
    · split <;> exact ⟨rfl, rfl⟩
    · split <;> exact ⟨rfl, rfl⟩
  · exact ⟨rfl, rfl⟩

/-- A voice after a cycle: the oscillator and envelope stages, then the sync (R141). -/
theorem cycleStep_voice_eq (s : State) (v : Fin 3) :
    (cycleStep s).voice v =
      if s.sync v && oscTrig s (src v) && !s.test v then { envStep (oscStage s) v with acc := 0#24 }
      else envStep (oscStage s) v := by
  rw [cycleStep_voice, voiceStages, syncApply_voice, syncVoice, envStage_voice]
  rfl

theorem cycleStep_acc (s : State) (v : Fin 3) :
    ((cycleStep s).voice v).acc =
      if s.sync v && oscTrig s (src v) && !s.test v then 0#24 else (oscAdvance s v).acc := by
  rw [cycleStep_voice_eq]
  split
  · rfl
  · rw [(envStep_acc_lfsr _ _).1, oscStage_voice]

theorem cycleStep_lfsr (s : State) (v : Fin 3) : ((cycleStep s).voice v).lfsr = (oscAdvance s v).lfsr := by
  rw [cycleStep_voice_eq]
  split <;> exact (envStep_acc_lfsr _ _).2.trans (by rw [oscStage_voice])

/-- The trigger that stage 1 returns, in integers. -/
theorem oscTrig_iff (s : State) (v : Fin 3) : oscTrig s v = true ↔ triggers s v := by
  unfold oscTrig triggers syncEdge
  rcases Bool.eq_false_or_eq_true (s.test v) with h | h
  · simp only [h, if_true, Bool.false_eq_true, Bool.true_eq_false, false_and]
  · rw [h]
    simp only [Bool.false_eq_true, if_false, true_and]
    cases s.variant.syncEdge with
    | wrap => exact decide_eq_true_iff
    | msbRise =>
      simp only [Bool.and_eq_true, Bool.not_eq_true', ← BitVec.getLsbD_eq_getElem, getLsbD_eq_div, decide_eq_true_eq,
        decide_eq_false_iff_not, BitVec.toNat_ofNat, oscSum, addOf]
      have := (s.voice v).acc.isLt
      omega

/-! ## The noise register -/

/-- The shift of the 12-bit register: bits 10:0 move up by one, the feedback enters at bit 0. -/
theorem lfsrNext_doc12 (r : BitVec 23) :
    (lfsrNext .doc12 r).toNat / 2 = r.toNat % 2 ^ 11 ∧
      (lfsrNext .doc12 r).getLsbD 0 = (r.getLsbD 11 ^^ r.getLsbD 5 ^^ r.getLsbD 3 ^^ r.getLsbD 0) := by
  have hx : (r.extractLsb' 0 11).toNat = r.toNat % 2 ^ 11 := by
    simp only [BitVec.extractLsb'_toNat, Nat.shiftRight_zero]
  constructor
  · rw [lfsrNext, BitVec.toNat_setWidth, append_toNat, hx]
    have := (BitVec.ofBool (r[11] ^^ r[5] ^^ r[3] ^^ r[0])).isLt
    omega
  · simp only [lfsrNext, BitVec.getLsbD_setWidth, BitVec.getLsbD_append]
    simp [BitVec.getLsbD_eq_getElem]

/-- The shift of the 23-bit register. -/
theorem lfsrNext_resid23 (r : BitVec 23) :
    (lfsrNext .resid23 r).toNat / 2 = r.toNat % 2 ^ 22 ∧
      (lfsrNext .resid23 r).getLsbD 0 = (r.getLsbD 22 ^^ r.getLsbD 17) := by
  have hx : (r.extractLsb' 0 22).toNat = r.toNat % 2 ^ 22 := by
    simp only [BitVec.extractLsb'_toNat, Nat.shiftRight_zero]
  constructor
  · rw [lfsrNext, append_toNat, hx]
    have := (BitVec.ofBool (r[22] ^^ r[17])).isLt
    omega
  · simp only [lfsrNext, BitVec.getLsbD_append]
    simp [BitVec.getLsbD_eq_getElem]

/-- A shift stays within the width (spec/10_state.md R24). -/
theorem lfsrNext_width (m : Config.NoiseModel) {r : BitVec 23} (hr : r.toNat < 2 ^ Params.noiseWidth m) :
    (lfsrNext m r).toNat < 2 ^ Params.noiseWidth m := by
  cases m with
  | doc12 =>
    have h := (lfsrNext_doc12 r).1
    show (lfsrNext .doc12 r).toNat < 2 ^ 12
    omega
  | resid23 => exact (lfsrNext .resid23 r).isLt

/-- A shift does not reach the lock state from a nonzero register (R173). -/
theorem lfsrNext_ne_zero (m : Config.NoiseModel) {r : BitVec 23} (hr : r.toNat < 2 ^ Params.noiseWidth m)
    (h0 : r ≠ 0#23) : lfsrNext m r ≠ 0#23 := by
  have hn : r.toNat ≠ 0 := fun h => h0 (BitVec.eq_of_toNat_eq h)
  intro e
  cases m with
  | doc12 =>
    obtain ⟨h1, h2⟩ := lfsrNext_doc12 r
    rw [e] at h1 h2
    have hr : r.toNat < 2 ^ 12 := hr
    have h1 : 0 = r.toNat % 2 ^ 11 := h1
    obtain rfl : r = 2048#23 := BitVec.eq_of_toNat_eq (show r.toNat = 2048 by omega)
    exact absurd h2 (by decide)
  | resid23 =>
    obtain ⟨h1, h2⟩ := lfsrNext_resid23 r
    rw [e] at h1 h2
    have hr := r.isLt
    have h1 : 0 = r.toNat % 2 ^ 22 := h1
    obtain rfl : r = 4194304#23 := BitVec.eq_of_toNat_eq (show r.toNat = 4194304 by omega)
    exact absurd h2 (by decide)

theorem noiseSeed_width (m : Config.NoiseModel) : (Params.noiseSeed m).toNat < 2 ^ Params.noiseWidth m := by
  cases m <;> decide

theorem noiseSeed_ne_zero (m : Config.NoiseModel) : Params.noiseSeed m ≠ 0#23 := by cases m <;> decide

/-- The noise register after stage 1: one shift when accumulator bit 19 rises in the add (R172). -/
theorem oscAdvance_lfsr {s : State} {v : Fin 3} (ht : s.test v = false) :
    (oscAdvance s v).lfsr =
      if (s.voice v).acc.toNat / 2 ^ 19 % 2 = 0 ∧ addOf s v % 2 ^ 24 / 2 ^ 19 % 2 = 1 then
        lfsrNext s.variant.noiseModel (s.voice v).lfsr
      else (s.voice v).lfsr := by
  unfold oscAdvance noiseClock
  simp only [ht, Bool.false_eq_true, if_false]
  congr 1
  simp only [getLsbD_eq_div, Params.noiseClockBit, Bool.and_eq_true, Bool.not_eq_true', decide_eq_true_eq,
    decide_eq_false_iff_not, BitVec.toNat_ofNat, oscSum, addOf, Nat.mod_two_not_eq_one]

/-- Any of the three values a noise register can take in a cycle: the seed, one shift, or no change. -/
theorem oscAdvance_lfsr_cases (s : State) (v : Fin 3) :
    (oscAdvance s v).lfsr = Params.noiseSeed s.variant.noiseModel ∨
      (oscAdvance s v).lfsr = lfsrNext s.variant.noiseModel (s.voice v).lfsr ∨
      (oscAdvance s v).lfsr = (s.voice v).lfsr := by
  rcases Bool.eq_false_or_eq_true (s.test v) with h | h
  · left
    simp only [oscAdvance, h, if_true, testHold]
  · right
    rw [oscAdvance_lfsr h]
    split
    · exact .inl rfl
    · exact .inr rfl

/-- A cycle keeps every noise register within its width. -/
theorem cycleStep_lfsrInWidth {s : State} (h : LfsrInWidth s) : LfsrInWidth (cycleStep s) := by
  intro v
  rw [cycleStep_lfsr, cycleStep_variant]
  rcases oscAdvance_lfsr_cases s v with e | e | e <;> rw [e]
  · exact noiseSeed_width _
  · exact lfsrNext_width _ (h v)
  · exact h v

/-- And so does any number of cycles. -/
theorem clock_lfsrInWidth (k : Nat) {s : State} (h : LfsrInWidth s) : LfsrInWidth (clock k s) :=
  clock_induct (P := LfsrInWidth) (fun _ h => cycleStep_lfsrInWidth h) k h

end Sys2Proof.Machine
end

