-- ==== Sys2Proof/Laws/Envelope.lean ====
section
/-! SUPPORT. Sys2Proof/Laws/Envelope.lean: the envelope of a voice over one cycle, apart from the oscillator, what each rate
event does, and what the gate edge of a CONTROL write does (spec/43_envelope.md). -/

namespace Sys2Proof.Machine

open Sys2Proof Sys2Proof.Safety

/-! ## The envelope does not look at the oscillator -/

theorem rateEvent_with_oscillator (n : Nat) (x : Voice) (a : BitVec 24) (l : BitVec 23) :
    rateEvent n { x with acc := a, lfsr := l } = { rateEvent n x with acc := a, lfsr := l } := by
  obtain ⟨_, _, level, phase, rc, exp⟩ := x
  cases phase
  · rfl
  all_goals
    show fallEvent _ _ = { fallEvent _ _ with acc := a, lfsr := l }
    unfold fallEvent
    simp only
    split <;> rfl

theorem oscAdvance_eq (s : State) (v : Fin 3) :
    oscAdvance s v = { s.voice v with acc := (oscAdvance s v).acc, lfsr := (oscAdvance s v).lfsr } := by
  unfold oscAdvance testHold
  split <;> rfl

theorem envStep_oscStage (s : State) (v : Fin 3) :
    envStep (oscStage s) v =
      { envStep s v with acc := (oscAdvance s v).acc, lfsr := (oscAdvance s v).lfsr } := by
  have hp : ratePeriod (oscStage s) v = ratePeriod s v := by
    rw [ratePeriod, oscStage_voice, oscAdvance_eq]
    rfl
  have hs : sustainLevel (oscStage s) v = sustainLevel s v := rfl
  unfold envStep
  simp only
  rw [oscStage_voice, hp, hs, oscAdvance_eq]
  generalize (oscAdvance s v).acc = a, (oscAdvance s v).lfsr = l
  simp only
  split
  · exact rateEvent_with_oscillator _ { s.voice v with rc := 0#15 } a l
  · rfl

/-- The envelope's fields after a cycle are those of the envelope stage alone. -/
theorem cycleStep_envelope (s : State) (v : Fin 3) :
    ((cycleStep s).voice v).level = (envStep s v).level ∧ ((cycleStep s).voice v).phase = (envStep s v).phase ∧
      ((cycleStep s).voice v).rc = (envStep s v).rc ∧ ((cycleStep s).voice v).exp = (envStep s v).exp := by
  rw [cycleStep_voice_eq, envStep_oscStage]
  split <;> exact ⟨rfl, rfl, rfl, rfl⟩

/-! ## Periods and divisors -/

theorem ratePeriod_eq (s : State) (v : Fin 3) : ratePeriod s v = periodOf s v := by
  have all : ∀ i : BitVec 4, ratePeriodOf i = ratePeriods.getD i.toNat 0 := by decide
  unfold ratePeriod periodOf
  cases (s.voice v).phase <;>
    simp only [all, State.attack, State.decay, State.release, highNibble_toNat, lowNibble_toNat]

theorem periodOf_bounds (s : State) (v : Fin 3) : 9 ≤ periodOf s v ∧ periodOf s v ≤ 31251 := by
  have all : ∀ i : BitVec 4, 9 ≤ ratePeriodOf i ∧ ratePeriodOf i ≤ 31251 := by decide
  rw [← ratePeriod_eq]
  unfold ratePeriod
  split <;> exact all _

theorem expDiv_eq (level : Nat) : Params.expDiv level = expDivisor level := by
  unfold Params.expDiv expDivisor expBands
  simp only [List.find?_cons]
  by_cases h1 : 94 ≤ level
  · simp only [h1, decide_true, Option.map_some, Option.getD_some]
    (repeat' split) <;> omega
  by_cases h2 : 55 ≤ level
  · simp only [h1, h2, decide_true, decide_false, Option.map_some, Option.getD_some]
    (repeat' split) <;> omega
  by_cases h3 : 27 ≤ level
  · simp only [h1, h2, h3, decide_true, decide_false, Option.map_some, Option.getD_some]
    (repeat' split) <;> omega
  by_cases h4 : 15 ≤ level
  · simp only [h1, h2, h3, h4, decide_true, decide_false, Option.map_some, Option.getD_some]
    (repeat' split) <;> omega
  by_cases h5 : 7 ≤ level
  · simp only [h1, h2, h3, h4, h5, decide_true, decide_false, Option.map_some, Option.getD_some]
    (repeat' split) <;> omega
  by_cases h6 : 1 ≤ level
  · simp only [h1, h2, h3, h4, h5, h6, decide_true, decide_false, Option.map_some, Option.getD_some]
    (repeat' split) <;> omega
  · simp only [h1, h2, h3, h4, h5, h6, Nat.zero_le, decide_true, decide_false, Option.map_some, Option.getD_some]
    (repeat' split) <;> omega

theorem expDiv_bounds (level : Nat) : 1 ≤ Params.expDiv level ∧ Params.expDiv level ≤ 30 := by
  unfold Params.expDiv
  (repeat' split) <;> omega

/-! ## Events -/

/-- An Attack event (R196). -/
theorem attackEvent_fields (x : Voice) :
    (attackEvent x).exp = 0#5 ∧ (attackEvent x).level.toNat = min (x.level.toNat + 1) 255 ∧
      (attackEvent x).rc = x.rc ∧
      (attackEvent x).phase = if 254 ≤ x.level.toNat then .decayOrSustain else x.phase := by
  have hl := x.level.isLt
  have h255 : (255#8 : Byte).toNat = 255 := rfl
  unfold attackEvent
  by_cases h : x.level.toNat < 255
  · have e : (x.level + 1#8).toNat = x.level.toNat + 1 := by
      rw [BitVec.toNat_add]
      exact Nat.mod_eq_of_lt (by rw [show (1#8 : Byte).toNat = 1 from rfl]; omega)
    have hi : (x.level + 1#8 = 255#8) ↔ 254 ≤ x.level.toNat := by
      rw [← BitVec.toNat_inj, e, h255]
      omega
    simp only [if_pos h, hi]
    exact ⟨trivial, by rw [e]; omega, trivial, trivial⟩
  · have hi : (x.level = 255#8) ↔ 254 ≤ x.level.toNat := by
      rw [← BitVec.toNat_inj, h255]
      omega
    simp only [if_neg h, hi]
    exact ⟨trivial, by omega, trivial, trivial⟩

/-- An event toward a floor (R198, R199). -/
theorem fallEvent_fields (floor : Nat) (x : Voice) :
    (fallEvent floor x).rc = x.rc ∧ (fallEvent floor x).phase = x.phase ∧
      (Params.expDiv x.level.toNat ≤ x.exp.toNat + 1 → (fallEvent floor x).exp = 0#5 ∧
        (fallEvent floor x).level.toNat = if floor < x.level.toNat then x.level.toNat - 1 else x.level.toNat) ∧
      (x.exp.toNat + 1 < Params.expDiv x.level.toNat → (fallEvent floor x).exp.toNat = x.exp.toNat + 1 ∧
        (fallEvent floor x).level = x.level) := by
  have hd := (expDiv_bounds x.level.toNat).2
  have hl := x.level.isLt
  unfold fallEvent
  by_cases h : Params.expDiv x.level.toNat ≤ x.exp.toNat + 1
  · simp only [if_pos h]
    refine ⟨trivial, trivial, fun _ => ⟨trivial, ?_⟩, fun k => absurd h (by omega)⟩
    by_cases hf : floor < x.level.toNat
    · rw [if_pos hf, if_pos hf, BitVec.toNat_sub, show (1#8 : Byte).toNat = 1 from rfl]
      omega
    · rw [if_neg hf, if_neg hf]
  · simp only [if_neg h]
    refine ⟨trivial, trivial, fun k => absurd k h, fun _ => ⟨?_, trivial⟩⟩
    rw [BitVec.toNat_add, show (1#5 : BitVec 5).toNat = 1 from rfl]
    omega

/-! ## The CONTROL write -/

/-- All that a gate edge can do (R191 to R193). -/
theorem gateEdge_fields (resets old new : Bool) (x : Voice) :
    (gateEdge resets old new x).acc = x.acc ∧ (gateEdge resets old new x).lfsr = x.lfsr ∧
      (gateEdge resets old new x).level = x.level ∧ (gateEdge resets old new x).exp = x.exp ∧
      ((gateEdge resets old new x).phase ≠ x.phase → new ≠ old) ∧
      ((gateEdge resets old new x).rc ≠ x.rc → old = false ∧ new = true ∧ resets = true) := by
  cases old <;> cases new
  · exact ⟨rfl, rfl, rfl, rfl, fun h => absurd rfl h, fun h => absurd rfl h⟩
  · refine ⟨rfl, rfl, rfl, rfl, fun _ => Bool.noConfusion, fun h => ⟨rfl, rfl, ?_⟩⟩
    cases resets
    · exact absurd rfl h
    · rfl
  · exact ⟨rfl, rfl, rfl, rfl, fun _ => Bool.noConfusion, fun h => absurd rfl h⟩
  · exact ⟨rfl, rfl, rfl, rfl, fun h => absurd rfl h, fun h => absurd rfl h⟩

/-- The voices after the effect of a CONTROL write: the other two are as before, and the written one goes through the
test hold and the gate edge (spec/40_orchestrator.md R108). -/
theorem ctrlEffect_voice (v : Fin 3) (old new : Byte) (s : State) (u : Fin 3) :
    (ctrlEffect v old new s).voice u =
      if u = v then
        gateEdge s.variant.gateResetsCounter old[0] new[0]
          (if new[3] then testHold s.variant.noiseModel (s.voice v) else s.voice v)
      else s.voice u := by
  rw [ctrlEffect, State.withVoice_voice]

/-- What the effect of a CONTROL write can change in any voice. -/
theorem ctrlEffect_changes (v : Fin 3) (old new : Byte) (s : State) (u : Fin 3) :
    let x := s.voice u
    let y := (ctrlEffect v old new s).voice u
    (y.acc ≠ x.acc ∨ y.lfsr ≠ x.lfsr → u = v ∧ new[3] = true) ∧ y.level = x.level ∧ y.exp = x.exp ∧
      (y.phase ≠ x.phase → u = v ∧ new[0] ≠ old[0]) ∧
      (y.rc ≠ x.rc → u = v ∧ old[0] = false ∧ new[0] = true ∧ s.variant.gateResetsCounter = true) := by
  simp only [ctrlEffect_voice]
  by_cases hu : u = v
  · subst hu
    simp only [if_pos]
    obtain ⟨ha, hl, hv, he, hp, hr⟩ := gateEdge_fields s.variant.gateResetsCounter old[0] new[0]
      (if new[3] then testHold s.variant.noiseModel (s.voice u) else s.voice u)
    rw [ha, hl, hv, he]
    cases ht : new[3]
    · rw [ht] at hp hr
      exact ⟨fun h => (h.elim (absurd rfl) (absurd rfl)), rfl, rfl, fun h => ⟨trivial, hp h⟩, fun h => ⟨trivial, hr h⟩⟩
    · rw [ht] at hp hr
      exact ⟨fun _ => ⟨trivial, rfl⟩, rfl, rfl, fun h => ⟨trivial, hp h⟩, fun h => ⟨trivial, hr h⟩⟩
  · simp only [if_neg hu]
    exact ⟨fun h => (h.elim (absurd rfl) (absurd rfl)), trivial, trivial, fun h => absurd rfl h, fun h => absurd rfl h⟩

end Sys2Proof.Machine
end

