-- ==== Sys2Proof/Laws/Ops.lean ====
section
/-! SUPPORT. Sys2Proof/Laws/Ops.lean: for each shared operation that ends a command, what it answers and when. -/

namespace Sys2Proof.Machine

open Sys2Proof

@[simp] theorem done_eq (r : Result) (s : State) : done r s = .next (s.withResult r) := rfl

@[simp] theorem whenAlive_alive {s : State} (h : s.alive = true) (k : Outcome) : whenAlive s k = k := if_pos h

@[simp] theorem whenAlive_dead {s : State} (h : s.alive = false) (k : Outcome) :
    whenAlive s k = .refused .notAlive := if_neg (by simp [h])

/-- `whenAlive` answers a next state only on an instance that is alive. -/
theorem whenAlive_next {s t : State} {k : Outcome} (h : whenAlive s k = .next t) : s.alive = true ∧ k = .next t := by
  unfold whenAlive at h
  split at h
  · exact ⟨‹_›, h⟩
  · cases h

@[simp] theorem require_ok (r : Refusal) (k : Outcome) : require true r k = k := rfl

@[simp] theorem require_fail (r : Refusal) (k : Outcome) : require false r k = .refused r := rfl

theorem require_next {ok : Bool} {r : Refusal} {k : Outcome} {t : State} (h : require ok r k = .next t) :
    ok = true ∧ k = .next t := by
  cases ok with
  | true => exact ⟨rfl, h⟩
  | false => cases h

/-- WRITE to an address of the map, on an instance that is alive: the store, then the effect. -/
theorem busWrite_alive (a : Fin 29) (effect : Byte → Byte → State → State) (d : Byte) {s : State}
    (h : s.alive = true) :
    busWrite a.val effect d s = .next ((effect (s.reg a) d (s.withReg a d)).withResult .none) := by
  unfold busWrite
  rw [whenAlive_alive h, dif_pos a.isLt]
  rfl

/-- All that WRITE can do, when it answers a next state. -/
theorem busWrite_next {a : Nat} {effect : Byte → Byte → State → State} {d : Byte} {s t : State}
    (h : busWrite a effect d s = .next t) :
    s.alive = true ∧ ∃ ha : a < 29,
      t = (effect (s.reg ⟨a, ha⟩) d (s.withReg ⟨a, ha⟩ d)).withResult .none := by
  obtain ⟨hs, h⟩ := whenAlive_next h
  refine ⟨hs, ?_⟩
  split at h
  · exact ⟨‹_›, (Host.Outcome.next.inj h).symm⟩
  · cases h

/-- A WRITE with no effect beyond the store: it completes, the cell holds the byte, and nothing else changes. -/
theorem busWrite_store (a : Fin 29) (d : Byte) {s : State} (h : s.alive = true) :
    ∃ t, busWrite a.val noEffect d s = .next t ∧ t = { s with regs := t.regs, result := .none } ∧ t.reg a = d ∧
      ∀ b, b ≠ a → t.reg b = s.reg b := by
  refine ⟨_, busWrite_alive a _ d h, rfl, ?_, fun b hb => ?_⟩
  · simp only [noEffect, State.withResult_reg, State.withReg_reg, if_true]
  · simp only [noEffect, State.withResult_reg, State.withReg_reg, if_neg hb]

/-- READ of an address of the map, on an instance that is alive: the value, and nothing changes. -/
theorem busRead_alive (a : Fin 29) (value : Fin 29 → State → Byte) {s : State} (h : s.alive = true) :
    busRead a.val value s = .next (s.withResult (.byte (value a s))) := by
  unfold busRead
  rw [whenAlive_alive h, dif_pos a.isLt]
  rfl

/-- All that READ can do, when it answers a next state. -/
theorem busRead_next {a : Nat} {value : Fin 29 → State → Byte} {s t : State} (h : busRead a value s = .next t) :
    s.alive = true ∧ ∃ ha : a < 29, t = s.withResult (.byte (value ⟨a, ha⟩ s)) := by
  obtain ⟨hs, h⟩ := whenAlive_next h
  refine ⟨hs, ?_⟩
  split at h
  · exact ⟨‹_›, (Host.Outcome.next.inj h).symm⟩
  · cases h

end Sys2Proof.Machine
end

