-- ==== Sys2Proof/Laws/Sampler.lean ====
section
/-! SUPPORT. Sys2Proof/Laws/Sampler.lean: the sampling loops of spec/46_sampler.md, in three steps: the machine apart
from the caller's buffer (`pureRun`), the buffer (`writeAll`), and the loop as the two together. -/

namespace Sys2Proof.Machine

open Sys2Proof

/-! ## Arithmetic of the sample position -/

theorem asr_eq (x : Int) (k : Nat) : asr x k = x / 2 ^ k := by
  rw [asr, Int.shiftRight_eq_div_pow]
  norm_cast

theorem s32_toInt {x : Int} (h1 : -2 ^ 31 ≤ x) (h2 : x < 2 ^ 31) : (s32 x).toInt = x := by
  rw [s32, BitVec.toInt_ofInt]
  exact Int.bmod_eq_of_le (by omega) (by omega)

theorem so_bounds (x : S32) : -2 ^ 31 ≤ x.toInt ∧ x.toInt < 2 ^ 31 := by
  have h1 := BitVec.le_toInt x
  have h2 := BitVec.toInt_lt (x := x)
  exact ⟨by simpa using h1, by simpa using h2⟩

theorem cyclesToSample_pos (m : SampleMethod) (s : State) : 1 ≤ cyclesToSample m s := by
  unfold cyclesToSample
  omega

theorem soOffset_bounds (m : SampleMethod) : 0 ≤ soOffset m ∧ soOffset m ≤ 2 ^ 15 := by
  cases m <;> simp [soOffset]

/-- `so` after a sample is the exact difference, in [−2^15, 2^16). -/
theorem soAfter_toInt (m : SampleMethod) (nso : Int) : (soAfter m nso).toInt = nso % 2 ^ 16 - soOffset m := by
  have := soOffset_bounds m
  exact s32_toInt (by omega) (by omega)

/-- The tail moves `so` back by the exact number of cycles: no wrap (spec/46_sampler.md R257). -/
theorem tail_so_toInt {m : SampleMethod} {s : State} {dt : Nat} (hc : s.cps < 2 ^ 31)
    (hdt : dt < cyclesToSample m s) : (s32 (s.so.toInt - dt * 2 ^ 16)).toInt = s.so.toInt - dt * 2 ^ 16 := by
  have hb := so_bounds s.so
  have ho := soOffset_bounds m
  unfold cyclesToSample nextSo at hdt
  rw [asr_eq] at hdt
  apply s32_toInt <;> omega

/-! ## What one sample and one tail leave -/

/-- The cycles that keep the output before the last one in `sprev`. -/
theorem clockKeepingPrev_eq {k : Nat} (hk : 1 ≤ k) (s : State) :
    clockKeepingPrev k s = { clock k s with sprev := outSample (clock (k - 1) s) } := by
  obtain ⟨j, rfl⟩ : ∃ j, k = j + 1 := ⟨k - 1, by omega⟩
  show clock 1 { clock j s with sprev := outSample (clock j s) } = _
  rw [clock_with_sprev, clock_succ_last j s]
  rfl

/-- `sprev` after a sample. -/
def prevAfterSample (m : SampleMethod) (dts : Nat) (s : State) : Sample :=
  match m with
  | .interpolate => outSample (clock dts s)
  | .decimate => s.sprev
  | .resample _ => s.sprev

/-- A sample leaves the state of its cycles, with `so` and `sprev` moved. -/
theorem produceSample_state (m : SampleMethod) {dts : Nat} (h : 1 ≤ dts) (nso : Int) (s : State) :
    (produceSample m dts nso s).1 =
      { clock dts s with so := soAfter m nso, sprev := prevAfterSample m dts s } := by
  cases m with
  | decimate =>
    conv => rhs; rw [show prevAfterSample .decimate dts s = (clock dts s).sprev from (clock_sprev dts s).symm]
    rfl
  | interpolate =>
    simp only [produceSample]
    rw [clockKeepingPrev_eq h]
    rfl
  | resample fir =>
    conv => rhs; rw [show prevAfterSample (.resample fir) dts s = (clock dts s).sprev from (clock_sprev dts s).symm]
    rfl

/-- `sprev` after a tail. -/
def prevAfterTail (m : SampleMethod) (dt : Nat) (s : State) : Sample :=
  match m with
  | .interpolate => if 1 ≤ dt then outSample (clock (dt - 1) s) else s.sprev
  | .decimate => s.sprev
  | .resample _ => s.sprev

/-- The tail leaves the state of its cycles, with `so` and `sprev` moved. -/
theorem runTail_state (m : SampleMethod) (dt : Nat) (s : State) :
    runTail m dt s =
      { clock dt s with so := s32 (s.so.toInt - dt * 2 ^ 16), sprev := prevAfterTail m dt s } := by
  cases m with
  | decimate =>
    conv => rhs; rw [show prevAfterTail .decimate dt s = (clock dt s).sprev from (clock_sprev dt s).symm]
    simp only [runTail, tailCycles, clock_so]
  | interpolate =>
    simp only [runTail, tailCycles, prevAfterTail]
    split
    · rename_i h
      rw [clockKeepingPrev_eq h]
      simp only [clock_so]
    · rename_i h
      obtain rfl : dt = 0 := by omega
      rfl
  | resample fir =>
    conv => rhs; rw [show prevAfterTail (.resample fir) dt s = (clock dt s).sprev from (clock_sprev dt s).symm]
    simp only [runTail, tailCycles, clock_so]

/-! ## The run apart from the caller's buffer -/

/-- What a run leaves, apart from the buffer. -/
structure PureRun where
  state     : State
  samples   : List Sample
  remaining : Nat

/-- The loop of `runLoop` with the samples in a list, room for `cap` of them, and the buffer left alone. -/
def pureRun (m : SampleMethod) : (fuel cap dt : Nat) → State → PureRun
  | 0, _, dt, s => { state := runTail m dt s, samples := [], remaining := 0 }
  | fuel + 1, cap, dt, s =>
    if dt < cyclesToSample m s then { state := runTail m dt s, samples := [], remaining := 0 }
    else
      match cap with
      | 0 => { state := s, samples := [], remaining := dt }
      | cap + 1 =>
        let p := produceSample m (cyclesToSample m s) (nextSo m s) s
        let r := pureRun m fuel cap (dt - cyclesToSample m s) p.1
        { r with samples := p.2 :: r.samples }

/-- The run of `dt` cycles. -/
abbrev pureRunOf (m : SampleMethod) (cap dt : Nat) (s : State) : PureRun := pureRun m dt cap dt s

theorem pureRun_succ (m : SampleMethod) (fuel cap dt : Nat) (s : State) :
    pureRun m (fuel + 1) cap dt s =
      if dt < cyclesToSample m s then { state := runTail m dt s, samples := [], remaining := 0 }
      else
        match cap with
        | 0 => { state := s, samples := [], remaining := dt }
        | cap + 1 =>
          let p := produceSample m (cyclesToSample m s) (nextSo m s) s
          let r := pureRun m fuel cap (dt - cyclesToSample m s) p.1
          { r with samples := p.2 :: r.samples } := rfl

/-- More fuel than cycles changes nothing. -/
theorem pureRun_fuel {m : SampleMethod} {fuel cap dt : Nat} {s : State} (h : dt ≤ fuel) :
    pureRun m fuel cap dt s = pureRunOf m cap dt s := by
  induction fuel using Nat.strong_induction_on generalizing cap dt s with
  | _ fuel ih =>
    have hp := cyclesToSample_pos m s
    cases fuel with
    | zero =>
      obtain rfl : dt = 0 := by omega
      rfl
    | succ fuel =>
      cases dt with
      | zero =>
        rw [pureRun_succ, if_pos (by omega)]
        rfl
      | succ dt =>
        rw [pureRun_succ, pureRunOf, pureRun_succ]
        split
        · rfl
        · cases cap with
          | zero => rfl
          | succ cap =>
            simp only
            rw [ih fuel (by omega) (by omega), ih dt (by omega) (by omega)]

/-- The loop, one round at a time. -/
theorem pureRunOf_eq (m : SampleMethod) (cap dt : Nat) (s : State) :
    pureRunOf m cap dt s =
      if dt < cyclesToSample m s then { state := runTail m dt s, samples := [], remaining := 0 }
      else
        match cap with
        | 0 => { state := s, samples := [], remaining := dt }
        | cap + 1 =>
          let p := produceSample m (cyclesToSample m s) (nextSo m s) s
          let r := pureRunOf m cap (dt - cyclesToSample m s) p.1
          { r with samples := p.2 :: r.samples } := by
  have hp := cyclesToSample_pos m s
  cases dt with
  | zero =>
    rw [if_pos (by omega)]
    rfl
  | succ dt =>
    rw [pureRunOf, pureRun_succ]
    split
    · rfl
    · cases cap with
      | zero => rfl
      | succ cap =>
        simp only
        rw [pureRun_fuel (by omega)]

/-- The round of a tail. -/
theorem pureRunOf_tail {m : SampleMethod} {cap dt : Nat} {s : State} (h : dt < cyclesToSample m s) :
    pureRunOf m cap dt s = { state := runTail m dt s, samples := [], remaining := 0 } := by
  rw [pureRunOf_eq, if_pos h]

/-- The round that finds the buffer full. -/
theorem pureRunOf_full {m : SampleMethod} {dt : Nat} {s : State} (h : cyclesToSample m s ≤ dt) :
    pureRunOf m 0 dt s = { state := s, samples := [], remaining := dt } := by
  rw [pureRunOf_eq, if_neg (by omega)]

/-- The round that writes a sample. -/
theorem pureRunOf_sample {m : SampleMethod} {cap dt : Nat} {s : State} (h : cyclesToSample m s ≤ dt) :
    pureRunOf m (cap + 1) dt s =
      { pureRunOf m cap (dt - cyclesToSample m s) (produceSample m (cyclesToSample m s) (nextSo m s) s).1 with
        samples :=
          (produceSample m (cyclesToSample m s) (nextSo m s) s).2 ::
            (pureRunOf m cap (dt - cyclesToSample m s)
              (produceSample m (cyclesToSample m s) (nextSo m s) s).1).samples } := by
  rw [pureRunOf_eq, if_neg (by omega)]

/-- To prove something of every run, prove it of its three rounds. -/
theorem pureRun_induct {m : SampleMethod} {P : (cap dt : Nat) → State → PureRun → Prop}
    (tail : ∀ cap dt s, dt < cyclesToSample m s →
      P cap dt s { state := runTail m dt s, samples := [], remaining := 0 })
    (full : ∀ dt s, cyclesToSample m s ≤ dt → P 0 dt s { state := s, samples := [], remaining := dt })
    (sample : ∀ cap dt s r, cyclesToSample m s ≤ dt →
      P cap (dt - cyclesToSample m s) (produceSample m (cyclesToSample m s) (nextSo m s) s).1 r →
      P (cap + 1) dt s
        { r with samples := (produceSample m (cyclesToSample m s) (nextSo m s) s).2 :: r.samples })
    (cap dt : Nat) (s : State) : P cap dt s (pureRunOf m cap dt s) := by
  induction dt using Nat.strong_induction_on generalizing cap s with
  | _ dt ih =>
    have hp := cyclesToSample_pos m s
    by_cases h : dt < cyclesToSample m s
    · rw [pureRunOf_tail h]
      exact tail cap dt s h
    · rw [not_lt] at h
      cases cap with
      | zero =>
        rw [pureRunOf_full h]
        exact full dt s h
      | succ cap =>
        rw [pureRunOf_sample h]
        exact sample cap dt s _ h (ih _ (by omega) cap _)

/-! ## The caller's buffer -/

/-- The buffer with the samples written from frame k on (spec/46_sampler.md R260). -/
def writeAll (il : Nat) : (k : Nat) → List Sample → List Sample → List Sample
  | _, [], buf => buf
  | k, x :: xs, buf => writeAll il (k + 1) xs (buf.set (k * il) x)

@[simp] theorem writeAll_length (il k : Nat) (xs buf : List Sample) :
    (writeAll il k xs buf).length = buf.length := by
  induction xs generalizing k buf with
  | nil => rfl
  | cons x xs ih => rw [writeAll, ih, List.length_set]

/-- No element outside the written frames changes (spec/20_memory.md R55). -/
theorem writeAll_other {il k j : Nat} {xs buf : List Sample}
    (h : ∀ q, k ≤ q → q < k + xs.length → j ≠ q * il) : (writeAll il k xs buf)[j]? = buf[j]? := by
  induction xs generalizing k buf with
  | nil => rfl
  | cons x xs ih =>
    rw [List.length_cons] at h
    rw [writeAll, ih fun q h1 h2 => h q (by omega) (by omega),
      List.getElem?_set_ne (Ne.symm (h k (le_refl k) (by omega)))]

/-- Frame k + q holds sample q. -/
theorem writeAll_at {il k q : Nat} {xs buf : List Sample} (hil : 1 ≤ il) (hq : q < xs.length)
    (hlen : (k + q) * il < buf.length) : (writeAll il k xs buf)[(k + q) * il]? = xs[q]? := by
  induction xs generalizing k q buf with
  | nil => exact absurd hq (Nat.not_lt_zero q)
  | cons x xs ih =>
    rw [writeAll]
    cases q with
    | zero =>
      rw [writeAll_other, Nat.add_zero, List.getElem?_set_self (by simpa using hlen)]
      · rfl
      · intro r h1 h2 he
        have := Nat.eq_of_mul_eq_mul_right (by omega) he
        omega
    | succ q =>
      have := ih (k := k + 1) (q := q) (buf := buf.set (k * il) x) (by simpa using hq)
        (by rw [List.length_set]; rw [show k + 1 + q = k + (q + 1) by omega]; exact hlen)
      rw [show k + (q + 1) = k + 1 + q by omega, this]
      rfl

/-! ## The loop -/

/-- A sample looks neither at the caller's buffer nor at the last result. -/
theorem produceSample_side (m : SampleMethod) {dts : Nat} (h : 1 ≤ dts) (nso : Int) (s : State)
    (buf : List Sample) (x : Result) :
    (produceSample m dts nso { s with callerBuf := buf, result := x }).1 =
        { (produceSample m dts nso s).1 with callerBuf := buf, result := x } ∧
      (produceSample m dts nso { s with callerBuf := buf, result := x }).2 = (produceSample m dts nso s).2 := by
  have hc : ∀ k, clock k { s with callerBuf := buf, result := x } = { clock k s with callerBuf := buf, result := x } := fun k =>
    clock_with_side buf x k s
  cases m with
  | decimate =>
    simp only [produceSample]
    rw [hc]
    exact ⟨rfl, rfl⟩
  | interpolate =>
    simp only [produceSample]
    rw [clockKeepingPrev_eq h, clockKeepingPrev_eq h, hc, hc]
    exact ⟨rfl, rfl⟩
  | resample fir =>
    simp only [produceSample]
    rw [hc]
    exact ⟨rfl, rfl⟩

/-- A tail looks neither at the caller's buffer nor at the last result. -/
theorem runTail_side (m : SampleMethod) (dt : Nat) (s : State) (buf : List Sample) (x : Result) :
    runTail m dt { s with callerBuf := buf, result := x } = { runTail m dt s with callerBuf := buf, result := x } := by
  rw [runTail_state, runTail_state, clock_with_side]
  cases m with
  | interpolate => simp only [prevAfterTail, clock_with_side]; rfl
  | decimate => rfl
  | resample fir => rfl

/-- A run looks neither at the caller's buffer nor at the last result. -/
theorem pureRun_side (m : SampleMethod) (cap dt : Nat) (s : State) (buf : List Sample) (x : Result) :
    pureRunOf m cap dt { s with callerBuf := buf, result := x } =
      { pureRunOf m cap dt s with state := { (pureRunOf m cap dt s).state with callerBuf := buf, result := x } } := by
  refine pureRun_induct (m := m)
    (P := fun cap dt s r => pureRunOf m cap dt { s with callerBuf := buf, result := x } =
      { r with state := { r.state with callerBuf := buf, result := x } }) ?_ ?_ ?_ cap dt s
  · intro cap dt s h
    rw [pureRunOf_tail (s := { s with callerBuf := buf, result := x }) h, runTail_side]
  · intro dt s h
    rw [pureRunOf_full (s := { s with callerBuf := buf, result := x }) h]
  · intro cap dt s r h ih
    obtain ⟨h1, h2⟩ :=
      produceSample_side m (cyclesToSample_pos m s) (nextSo m s) s buf x
    rw [pureRunOf_sample (s := { s with callerBuf := buf, result := x }) h]
    show PureRun.mk
        (pureRunOf m cap (dt - cyclesToSample m s)
          (produceSample m (cyclesToSample m s) (nextSo m s) { s with callerBuf := buf, result := x }).1).state
        ((produceSample m (cyclesToSample m s) (nextSo m s) { s with callerBuf := buf, result := x }).2 ::
          (pureRunOf m cap (dt - cyclesToSample m s)
            (produceSample m (cyclesToSample m s) (nextSo m s) { s with callerBuf := buf, result := x }).1).samples)
        (pureRunOf m cap (dt - cyclesToSample m s)
          (produceSample m (cyclesToSample m s) (nextSo m s) { s with callerBuf := buf, result := x }).1).remaining = _
    rw [h1, h2, ih]

/-- A run does not look at the caller's buffer. -/
theorem pureRun_callerBuf (m : SampleMethod) (cap dt : Nat) (s : State) (buf : List Sample) :
    pureRunOf m cap dt { s with callerBuf := buf } =
      { pureRunOf m cap dt s with state := { (pureRunOf m cap dt s).state with callerBuf := buf } } := by
  have h := pureRun_side m cap dt s buf s.result
  rw [show ({ s with callerBuf := buf, result := s.result } : State) = { s with callerBuf := buf } from rfl] at h
  have h' := pureRun_side m cap dt s s.callerBuf s.result
  rw [show ({ s with callerBuf := s.callerBuf, result := s.result } : State) = s from rfl] at h'
  have hr : (pureRunOf m cap dt s).state.result = s.result := congrArg (fun r => r.state.result) h'
  rw [h, ← hr]

/-- The caller's buffer is not touched by the run apart from it. -/
theorem pureRun_keeps_callerBuf (m : SampleMethod) (cap dt : Nat) (s : State) :
    (pureRunOf m cap dt s).state.callerBuf = s.callerBuf := by
  have h := pureRun_callerBuf m cap dt s s.callerBuf
  rw [show ({ s with callerBuf := s.callerBuf } : State) = s from rfl] at h
  exact congrArg (fun r => r.state.callerBuf) h

/-- The loop is the run apart from the buffer, with its samples written from frame k on. -/
theorem runLoop_eq {m : SampleMethod} {n il fuel k dt : Nat} {s : State} (h : dt ≤ fuel) :
    runLoop m n il fuel k dt s =
      { state :=
          { (pureRunOf m (n - k) dt s).state with
            callerBuf := writeAll il k (pureRunOf m (n - k) dt s).samples s.callerBuf }
        written := k + (pureRunOf m (n - k) dt s).samples.length
        remaining := (pureRunOf m (n - k) dt s).remaining } := by
  induction fuel generalizing k dt s with
  | zero =>
    obtain rfl : dt = 0 := by omega
    rw [pureRunOf_tail (cyclesToSample_pos m s)]
    show RunResult.mk (runTail m 0 s) k 0 = RunResult.mk { runTail m 0 s with callerBuf := s.callerBuf } k 0
    rw [runTail_state]
    congr 1
  | succ fuel ih =>
    have hp := cyclesToSample_pos m s
    rw [runLoop]
    simp only
    split
    · rename_i hlt
      rw [pureRunOf_tail hlt]
      show RunResult.mk (runTail m dt s) k 0 = RunResult.mk { runTail m dt s with callerBuf := s.callerBuf } k 0
      rw [runTail_state]
      congr 1
      show _ = ({ clock dt s with so := _, sprev := _, callerBuf := s.callerBuf } : State)
      rw [← clock_callerBuf dt s]
    · rename_i hge
      rw [not_lt] at hge
      split
      · rename_i hn
        rw [show n - k = 0 by omega, pureRunOf_full hge]
        rfl
      · rename_i hn
        obtain ⟨c, hc⟩ : ∃ c, n - k = c + 1 := ⟨n - k - 1, by omega⟩
        rw [ih (by omega), hc, pureRunOf_sample hge, show n - (k + 1) = c by omega]
        have hb := pureRun_callerBuf m c (dt - cyclesToSample m s)
          (produceSample m (cyclesToSample m s) (nextSo m s) s).1
          (List.set (produceSample m (cyclesToSample m s) (nextSo m s) s).1.callerBuf (k * il)
            (produceSample m (cyclesToSample m s) (nextSo m s) s).2)
        have hs : (produceSample m (cyclesToSample m s) (nextSo m s) s).1.callerBuf = s.callerBuf := by
          rw [produceSample_state m hp, clock_callerBuf]
        rw [State.memWrite, hb, hs]
        simp only [List.length_cons, RunResult.mk.injEq, and_true]
        exact ⟨rfl, by omega⟩

/-- A run of CLOCK_SAMPLES. -/
theorem runSamples_eq (dt n il : Nat) (s : State) :
    runSamples dt n il s =
      { state :=
          { (pureRunOf s.method n dt s).state with
            callerBuf := writeAll il 0 (pureRunOf s.method n dt s).samples s.callerBuf }
        written := (pureRunOf s.method n dt s).samples.length
        remaining := (pureRunOf s.method n dt s).remaining } := by
  rw [runSamples, runLoop_eq (le_refl dt), Nat.sub_zero, Nat.zero_add]

/-! ## What a run does -/

/-- A run consumes exactly the cycles it counts (spec/41_clocking.md R146): apart from `so` and `sprev` its state is
the clocked one. -/
theorem pureRun_state (m : SampleMethod) (cap dt : Nat) (s : State) :
    (pureRunOf m cap dt s).remaining ≤ dt ∧
      (pureRunOf m cap dt s).state =
        { clock (dt - (pureRunOf m cap dt s).remaining) s with
          so := (pureRunOf m cap dt s).state.so
          sprev := (pureRunOf m cap dt s).state.sprev } := by
  refine pureRun_induct (m := m)
    (P := fun _ dt s r => r.remaining ≤ dt ∧
      r.state = { clock (dt - r.remaining) s with so := r.state.so, sprev := r.state.sprev }) ?_ ?_ ?_ cap dt s
  · intro cap dt s _
    refine ⟨Nat.zero_le dt, ?_⟩
    show runTail m dt s = _
    rw [runTail_state]
    rfl
  · intro dt s _
    refine ⟨le_refl dt, ?_⟩
    simp only [Nat.sub_self, clock_zero]
  · intro cap dt s r h ⟨h1, h2⟩
    refine ⟨by simp only; omega, ?_⟩
    simp only
    rw [produceSample_state m (cyclesToSample_pos m s), clock_with_so_sprev, ← clock_add,
      show cyclesToSample m s + (dt - cyclesToSample m s - r.remaining) = dt - r.remaining by omega] at h2
    exact h2

/-- The samples fit the room, and cycles remain only when the room is used up (spec/46_sampler.md R261). -/
theorem pureRun_counts (m : SampleMethod) (cap dt : Nat) (s : State) :
    (pureRunOf m cap dt s).samples.length ≤ cap ∧
      ((pureRunOf m cap dt s).remaining ≠ 0 → (pureRunOf m cap dt s).samples.length = cap) := by
  refine pureRun_induct (m := m)
    (P := fun cap _ _ r => r.samples.length ≤ cap ∧ (r.remaining ≠ 0 → r.samples.length = cap)) ?_ ?_ ?_ cap dt s
  · intro cap dt s _
    exact ⟨Nat.zero_le cap, fun h => absurd rfl h⟩
  · intro dt s _
    exact ⟨le_refl 0, fun _ => rfl⟩
  · intro cap dt s r _ ⟨h1, h2⟩
    simp only [List.length_cons]
    exact ⟨by omega, fun h => by rw [h2 h]⟩

/-! ## Splitting a run (spec/46_sampler.md R261) -/

/-- The sample of a round, from the state before it. -/
def sampleValue (m : SampleMethod) (dts : Nat) (nso : Int) (s : State) : Sample :=
  match m with
  | .decimate => outSample (clock dts s)
  | .interpolate =>
    interpolateValue { clock dts s with so := soAfter .interpolate nso, sprev := outSample (clock (dts - 1) s) }
  | .resample fir => resampleValue fir { clock dts s with so := soAfter (.resample fir) nso }

theorem produceSample_value (m : SampleMethod) {dts : Nat} (h : 1 ≤ dts) (nso : Int) (s : State) :
    (produceSample m dts nso s).2 = sampleValue m dts nso s := by
  cases m with
  | decimate => rfl
  | interpolate =>
    simp only [produceSample, sampleValue]
    rw [clockKeepingPrev_eq h]
  | resample fir => rfl

@[simp] theorem runTail_cps (m : SampleMethod) (dt : Nat) (s : State) : (runTail m dt s).cps = s.cps := by
  rw [runTail_state]
  exact clock_cps dt s

theorem runTail_nextSo {m : SampleMethod} {s : State} {dt : Nat} (hc : s.cps < 2 ^ 31)
    (hdt : dt < cyclesToSample m s) : nextSo m (runTail m dt s) = nextSo m s - dt * 2 ^ 16 := by
  have hso : (runTail m dt s).so = s32 (s.so.toInt - dt * 2 ^ 16) := by rw [runTail_state]
  rw [nextSo, nextSo, runTail_cps, hso, tail_so_toInt hc hdt]
  omega

theorem runTail_cyclesToSample {m : SampleMethod} {s : State} {dt : Nat} (hc : s.cps < 2 ^ 31)
    (hdt : dt < cyclesToSample m s) : cyclesToSample m (runTail m dt s) = cyclesToSample m s - dt := by
  rw [cyclesToSample, runTail_nextSo hc hdt]
  rw [cyclesToSample] at hdt ⊢
  rw [asr_eq] at hdt ⊢
  rw [asr_eq]
  omega

theorem soAfter_sub (m : SampleMethod) (nso : Int) (dt : Nat) :
    soAfter m (nso - dt * 2 ^ 16) = soAfter m nso := by
  rw [soAfter, soAfter, Int.sub_mul_emod_self_right]

/-- The clocked state after a tail, with `so` and `sprev` set anew. -/
theorem runTail_clock (m : SampleMethod) (dt k : Nat) (s : State) (x : S32) (y : Sample) :
    ({ clock k (runTail m dt s) with so := x, sprev := y } : State) =
      { clock (dt + k) s with so := x, sprev := y } := by
  rw [runTail_state, clock_with_so_sprev, clock_add]

theorem outSample_clock_runTail (m : SampleMethod) (dt k : Nat) (s : State) :
    outSample (clock k (runTail m dt s)) = outSample (clock (dt + k) s) := by
  have h := congrArg outSample (runTail_clock m dt k s 0#32 0#16)
  exact h

/-- The round that follows a tail is the round that the tail cut short. -/
theorem produceSample_after_tail {m : SampleMethod} {s : State} {dt : Nat} (hc : s.cps < 2 ^ 31)
    (hdt : dt < cyclesToSample m s) :
    produceSample m (cyclesToSample m (runTail m dt s)) (nextSo m (runTail m dt s)) (runTail m dt s) =
      produceSample m (cyclesToSample m s) (nextSo m s) s := by
  have hk : dt + (cyclesToSample m s - dt) = cyclesToSample m s := by omega
  have hk' : dt + (cyclesToSample m s - dt - 1) = cyclesToSample m s - 1 := by omega
  have hp := cyclesToSample_pos m s
  rw [runTail_cyclesToSample hc hdt, runTail_nextSo hc hdt]
  apply Prod.ext
  · rw [produceSample_state m (by omega), produceSample_state m (by omega), soAfter_sub]
    cases m with
    | interpolate =>
      rw [prevAfterSample, outSample_clock_runTail, hk, runTail_clock, hk]
      rfl
    | decimate =>
      rw [runTail_clock, hk, prevAfterSample, prevAfterSample, runTail_state, prevAfterTail]
    | resample fir =>
      rw [runTail_clock, hk, prevAfterSample, prevAfterSample, runTail_state, prevAfterTail]
  · rw [produceSample_value m (by omega), produceSample_value m (by omega)]
    cases m with
    | interpolate =>
      rw [sampleValue, sampleValue, soAfter_sub, outSample_clock_runTail, hk', runTail_clock, hk]
    | decimate => rw [sampleValue, sampleValue, outSample_clock_runTail, hk]
    | resample fir =>
      rw [sampleValue, sampleValue, soAfter_sub]
      have := congrArg (resampleValue fir)
        (runTail_clock (.resample fir) dt (cyclesToSample (.resample fir) s - dt) s
          (soAfter (.resample fir) (nextSo (.resample fir) s)) 0#16)
      rw [hk] at this
      exact this

/-- Two tails are one. -/
theorem runTail_runTail {m : SampleMethod} {s : State} {a b : Nat} (hc : s.cps < 2 ^ 31)
    (h : a + b < cyclesToSample m s) : runTail m b (runTail m a s) = runTail m (a + b) s := by
  have hso : (runTail m a s).so = s32 (s.so.toInt - a * 2 ^ 16) := by rw [runTail_state]
  rw [runTail_state m b, hso, tail_so_toInt hc (show a < cyclesToSample m s by omega), runTail_clock,
    runTail_state m (a + b)]
  rw [show s.so.toInt - (a : Int) * 2 ^ 16 - b * 2 ^ 16 = s.so.toInt - ((a + b : Nat) : Int) * 2 ^ 16 by push_cast; ring]
  cases m with
  | interpolate =>
    simp only [prevAfterTail]
    split
    · rw [if_pos (by omega), outSample_clock_runTail, show a + (b - 1) = a + b - 1 by omega]
    · obtain rfl : b = 0 := by omega
      rw [runTail_state, prevAfterTail, Nat.add_zero]
  | decimate => rw [prevAfterTail, prevAfterTail, runTail_state, prevAfterTail]
  | resample fir => rw [prevAfterTail, prevAfterTail, runTail_state, prevAfterTail]

/-- A run that follows a tail is the run that the tail cut short, while there is room for a sample. -/
theorem pureRun_after_tail {m : SampleMethod} {s : State} {a b cap : Nat} (hc : s.cps < 2 ^ 31)
    (h : a < cyclesToSample m s) (hcap : 1 ≤ cap) :
    pureRunOf m cap b (runTail m a s) = pureRunOf m cap (a + b) s := by
  obtain ⟨c, rfl⟩ : ∃ c, cap = c + 1 := ⟨cap - 1, by omega⟩
  have ht := runTail_cyclesToSample hc h
  by_cases hb : a + b < cyclesToSample m s
  · rw [pureRunOf_tail hb, pureRunOf_tail (by omega), runTail_runTail hc hb]
  · rw [pureRunOf_sample (by omega), pureRunOf_sample (by omega), produceSample_after_tail hc h, ht,
      show b - (cyclesToSample m s - a) = a + b - cyclesToSample m s by omega]

/-- A run whose cycles are used up, then another, is one run. -/
theorem pureRun_split {m : SampleMethod} {cap a b cap' : Nat} {s : State} (hc : s.cps < 2 ^ 31)
    (hrem : (pureRunOf m cap a s).remaining = 0) (hcap : 1 ≤ cap') :
    pureRunOf m ((pureRunOf m cap a s).samples.length + cap') (a + b) s =
      { pureRunOf m cap' b (pureRunOf m cap a s).state with
        samples := (pureRunOf m cap a s).samples ++ (pureRunOf m cap' b (pureRunOf m cap a s).state).samples } := by
  refine pureRun_induct (m := m)
    (P := fun _ a s r => s.cps < 2 ^ 31 → r.remaining = 0 →
      pureRunOf m (r.samples.length + cap') (a + b) s =
        { pureRunOf m cap' b r.state with samples := r.samples ++ (pureRunOf m cap' b r.state).samples })
    ?_ ?_ ?_ cap a s hc hrem
  · intro cap a s h hc _
    rw [pureRun_after_tail hc h hcap, List.length_nil, Nat.zero_add]
    rfl
  · intro a s h hc h0
    have := cyclesToSample_pos m s
    simp only at h0
    omega
  · intro cap a s r h ih hc h0
    have hp := cyclesToSample_pos m s
    have ih := ih (by rw [produceSample_state m hp]; simpa using hc) h0
    simp only [List.length_cons]
    rw [show r.samples.length + 1 + cap' = r.samples.length + cap' + 1 by omega, pureRunOf_sample (by omega),
      show a + b - cyclesToSample m s = a - cyclesToSample m s + b by omega, ih]
    rfl

/-! ## The RESAMPLE window -/

/-- The window sum of R259, written as a sum over offsets, for a row of the table. -/
theorem firSum_eq {fir : FirSet} (s : State) (base : Int) {row : Nat} (hlen : fir.taps.length = fir.n * fir.res)
    (hrow : row < fir.res) :
    firSum fir s base row =
      ∑ j ∈ Finset.range fir.n,
        (ringAt s (base + j)).toInt * (fir.taps.getD (row * fir.n + j) 0#16).toInt := by
  have hle : row * fir.n + fir.n ≤ fir.taps.length := by
    rw [hlen, ← Nat.succ_mul, Nat.mul_comm]
    exact Nat.mul_le_mul_left _ hrow
  have hz : List.zipWith (fun x y : Int => x * y)
      ((List.range fir.n).map fun (j : Nat) => (ringAt s (base + j)).toInt)
      (((fir.taps.drop (row * fir.n)).take fir.n).map fun t => t.toInt) =
      (List.range fir.n).map fun (j : Nat) =>
        (ringAt s (base + j)).toInt * (fir.taps.getD (row * fir.n + j) 0#16).toInt := by
    apply List.ext_getElem
    · simp only [List.length_zipWith, List.length_map, List.length_range, List.length_take, List.length_drop]
      omega
    · intro i h1 h2
      simp only [List.length_map, List.length_range] at h2
      simp only [List.getElem_zipWith, List.getElem_map, List.getElem_range, List.getElem_take, List.getElem_drop]
      rw [List.getD_eq_getElem _ _ (by omega)]
  rw [firSum, hz]
  rfl

end Sys2Proof.Machine
end

