-- ==== Sys2Proof/Laws/Exec.lean ====
section
/-! SUPPORT. Sys2Proof/Laws/Exec.lean: all that a command can do, said once. A claim about every command is then a case
analysis over eleven effects. -/

namespace Sys2Proof.Machine

open Sys2Proof Sys2Proof.Safety

/-- The effects of the commands, up to the next state. -/
inductive Effect (i : Instr) (s : State) : State → Prop
  /-- A register write with no effect beyond the store. -/
  | store (a : Fin 29) (d : Byte) (hi : writeRow a.val d = some i) (ha : ∀ v, a ≠ voiceAddr v 4) :
      Effect i s ((s.withReg a d).withResult .none)
  /-- A CONTROL write. -/
  | control (v : Fin 3) (d : Byte) (hi : i = wrCtrl v d) :
      Effect i s ((ctrlEffect v (s.ctrl v) d (s.withReg (voiceAddr v 4) d)).withResult .none)
  /-- A read, an output, a snapshot read, or a rejected configuration: nothing changes. -/
  | answer (r : Result) (hi : clocks i = false) : Effect i s (s.withResult r)
  /-- CREATE. -/
  | created (hi : i = .create) :
      Effect i s (({ State.created s.createArgs with cmds := s.cmds, callerBuf := s.callerBuf }).withResult .none)
  /-- RELEASE. -/
  | released (hi : i = .release) : Effect i s (({ s with alive := false }).withResult .none)
  /-- RESET. -/
  | afterReset (hi : i = .reset) : Effect i s (s.afterReset.withResult .none)
  /-- The configuration latches and the audio input. -/
  | latched (m : ChipModel) (f e : Bool) (x : Sample)
      (hi : (∃ k, i = .setChipModel k) ∨ (∃ b, i = .enableFilter b) ∨ (∃ b, i = .enableExtFilter b) ∨
        ∃ k, i = .input k)
      (hm : (∃ k, i = .setChipModel k) ∨ m = s.model) (hf : (∃ b, i = .enableFilter b) ∨ f = s.filterEn)
      (he : (∃ b, i = .enableExtFilter b) ∨ e = s.extEn) (hx : (∃ k, i = .input k) ∨ x = s.extIn) :
      Effect i s (({ s with model := m, filterEn := f, extEn := e, extIn := x }).withResult .none)
  /-- An accepted SET_SAMPLING_PARAMETERS. -/
  | committed (fc : Rat) (m : Int) (fs pass scale : Rat) (hi : i = .setSamplingParameters fc m fs pass scale)
      (hv : samplingValid fc m fs pass scale = true) :
      Effect i s ((commitSampling fc m fs pass scale s).withResult (.flag true))
  /-- ADJUST_SAMPLING_FREQUENCY. -/
  | adjusted (fs : Rat) (hi : i = .adjustSamplingFrequency fs) (hv : adjustOk s.clockFreq fs = true) :
      Effect i s (({ s with sampleFreq := fs, cps := (cpsOf s.clockFreq fs).toNat }).withResult .none)
  /-- CLOCK1, CLOCKN and CLOCK_SAMPLES: k cycles; only CLOCK_SAMPLES moves `so` and `sprev` and writes the buffer. -/
  | clocked (k : Nat) (so : S32) (sp : Sample) (buf : List Sample) (r : Result) (hi : clocks i = true)
      (hs : (∃ a b c d, i = .clockSamples a b c d) ∨ so = s.so ∧ sp = s.sprev ∧ buf = s.callerBuf) :
      Effect i s (({ clock k s with so := so, sprev := sp, callerBuf := buf }).withResult r)
  /-- WRITE_STATE. -/
  | restored (blob : List Byte) (hi : i = .writeState blob) (hv : snapshotOk blob = true) :
      Effect i s ((restore blob s).withResult .none)

theorem effect_of_store {i : Instr} {a : Nat} {d : Byte} {s t : State} (h : busWrite a noEffect d s = .next t)
    (hi : a < 29 → writeRow a d = some i) (ha : ∀ v : Fin 3, a ≠ 7 * v.val + 4) :
    s.alive = true ∧ Effect i s t := by
  obtain ⟨hs, ha', rfl⟩ := busWrite_next h
  exact ⟨hs, .store ⟨a, ha'⟩ d (hi ha') fun v hv => ha v (congrArg Fin.val hv)⟩

theorem effect_of_control {a : Nat} (v : Fin 3) {d : Byte} {s t : State}
    (h : busWrite a (ctrlEffect v) d s = .next t) (ha : a = 7 * v.val + 4) :
    s.alive = true ∧ Effect (wrCtrl v d) s t := by
  subst ha
  obtain ⟨hs, ha', rfl⟩ := busWrite_next h
  exact ⟨hs, .control v d rfl⟩

theorem effect_of_read {i : Instr} {a : Nat} {value : Fin 29 → State → Byte} {s t : State}
    (h : busRead a value s = .next t) (hi : clocks i = false) : s.alive = true ∧ Effect i s t := by
  obtain ⟨hs, ha, rfl⟩ := busRead_next h
  exact ⟨hs, .answer _ hi⟩

/-- What CLOCK_SAMPLES does after its checks: the run apart from the buffer, the buffer written, and the counts. -/
theorem clockSamplesRun_run (dt : Nat) (buf : List Sample) (n il : Nat) (s : State) :
    clockSamplesRun dt buf n il s =
      .next { (pureRunOf s.method n dt s).state with
        callerBuf := writeAll il 0 (pureRunOf s.method n dt s).samples buf
        result := .counts (pureRunOf s.method n dt s).samples.length (pureRunOf s.method n dt s).remaining } := by
  rw [clockSamplesRun]
  simp only
  rw [runSamples_eq]
  simp only
  rw [pureRun_callerBuf, done_eq]
  rfl

/-- The same, with the state of the run written out. -/
theorem clockSamplesRun_eq (dt : Nat) (buf : List Sample) (n il : Nat) (s : State) :
    clockSamplesRun dt buf n il s =
      .next (({ clock (dt - (pureRunOf s.method n dt s).remaining) s with
          so := (pureRunOf s.method n dt s).state.so
          sprev := (pureRunOf s.method n dt s).state.sprev
          callerBuf := writeAll il 0 (pureRunOf s.method n dt s).samples buf }).withResult
        (.counts (pureRunOf s.method n dt s).samples.length (pureRunOf s.method n dt s).remaining)) := by
  rw [clockSamplesRun_run]
  have h := (pureRun_state s.method n dt s).2
  generalize pureRunOf s.method n dt s = p at *
  rw [h]
  rfl

/-- All that a command can do, when it answers a next state: CREATE, or an effect on an instance that is alive. -/
theorem exec_effect {i : Instr} {s t : State} (h : exec i s = .next t) :
    (i = .create ∨ s.alive = true) ∧ Effect i s t := by
  have lift : s.alive = true ∧ Effect i s t → (i = .create ∨ s.alive = true) ∧ Effect i s t :=
    fun h => ⟨.inr h.1, h.2⟩
  cases i with
  | create =>
    refine ⟨.inl rfl, ?_⟩
    obtain rfl := Host.Outcome.next.inj h
    exact .created rfl
  | release =>
    obtain ⟨hs, h⟩ := whenAlive_next h
    obtain rfl := Host.Outcome.next.inj h
    exact ⟨.inr hs, .released rfl⟩
  | reset =>
    obtain ⟨hs, h⟩ := whenAlive_next h
    obtain rfl := Host.Outcome.next.inj h
    exact ⟨.inr hs, .afterReset rfl⟩
  | setChipModel m =>
    obtain ⟨hs, h⟩ := whenAlive_next h
    split at h
    · cases h
    · obtain rfl := Host.Outcome.next.inj h
      exact ⟨.inr hs, .latched _ _ _ _ (.inl ⟨m, rfl⟩) (.inl ⟨m, rfl⟩) (.inr rfl) (.inr rfl) (.inr rfl)⟩
  | enableFilter b =>
    obtain ⟨hs, h⟩ := whenAlive_next h
    obtain rfl := Host.Outcome.next.inj h
    exact ⟨.inr hs, .latched _ _ _ _ (.inr (.inl ⟨b, rfl⟩)) (.inr rfl) (.inl ⟨b, rfl⟩) (.inr rfl) (.inr rfl)⟩
  | enableExtFilter b =>
    obtain ⟨hs, h⟩ := whenAlive_next h
    obtain rfl := Host.Outcome.next.inj h
    exact ⟨.inr hs,
      .latched _ _ _ _ (.inr (.inr (.inl ⟨b, rfl⟩))) (.inr rfl) (.inr rfl) (.inl ⟨b, rfl⟩) (.inr rfl)⟩
  | setSamplingParameters fc m fs pass scale =>
    obtain ⟨hs, h⟩ := whenAlive_next h
    split at h
    · obtain rfl := Host.Outcome.next.inj h
      exact ⟨.inr hs, .committed fc m fs pass scale rfl ‹_›⟩
    · obtain rfl := Host.Outcome.next.inj h
      exact ⟨.inr hs, .answer _ rfl⟩
  | adjustSamplingFrequency fs =>
    obtain ⟨hs, h⟩ := whenAlive_next h
    obtain ⟨hv, h⟩ := require_next h
    obtain rfl := Host.Outcome.next.inj h
    exact ⟨.inr hs, .adjusted fs rfl hv⟩
  | clock1 =>
    obtain ⟨hs, h⟩ := whenAlive_next h
    obtain rfl := Host.Outcome.next.inj h
    refine ⟨.inr hs, ?_⟩
    have := Effect.clocked (i := .clock1) (s := s) 1 (clock 1 s).so (clock 1 s).sprev (clock 1 s).callerBuf .none rfl
      (.inr ⟨clock_so 1 s, clock_sprev 1 s, clock_callerBuf 1 s⟩)
    exact this
  | clockN n =>
    obtain ⟨hs, h⟩ := whenAlive_next h
    obtain ⟨hv, h⟩ := require_next h
    obtain rfl := Host.Outcome.next.inj h
    refine ⟨.inr hs, ?_⟩
    have := Effect.clocked (i := .clockN n) (s := s) n.toNat (clock n.toNat s).so (clock n.toNat s).sprev
      (clock n.toNat s).callerBuf .none rfl
      (.inr ⟨clock_so n.toNat s, clock_sprev n.toNat s, clock_callerBuf n.toNat s⟩)
    exact this
  | clockSamples dt buf n il =>
    obtain ⟨hs, h⟩ := whenAlive_next h
    obtain ⟨_, h⟩ := require_next h
    obtain ⟨_, h⟩ := require_next h
    obtain ⟨_, h⟩ := require_next h
    rw [clockSamplesRun_eq] at h
    obtain rfl := Host.Outcome.next.inj h
    exact ⟨.inr hs, .clocked _ _ _ _ _ rfl (.inl ⟨dt, buf, n, il, rfl⟩)⟩
  | input x =>
    obtain ⟨hs, h⟩ := whenAlive_next h
    obtain ⟨_, h⟩ := require_next h
    obtain rfl := Host.Outcome.next.inj h
    exact ⟨.inr hs, .latched _ _ _ _ (.inr (.inr (.inr ⟨x, rfl⟩))) (.inr rfl) (.inr rfl) (.inr rfl) (.inl ⟨x, rfl⟩)⟩
  | output =>
    obtain ⟨hs, h⟩ := whenAlive_next h
    obtain rfl := Host.Outcome.next.inj h
    exact ⟨.inr hs, .answer _ rfl⟩
  | outputBits b =>
    obtain ⟨hs, h⟩ := whenAlive_next h
    obtain ⟨_, h⟩ := require_next h
    obtain rfl := Host.Outcome.next.inj h
    exact ⟨.inr hs, .answer _ rfl⟩
  | readState =>
    obtain ⟨hs, h⟩ := whenAlive_next h
    obtain rfl := Host.Outcome.next.inj h
    exact ⟨.inr hs, .answer _ rfl⟩
  | writeState blob =>
    obtain ⟨hs, h⟩ := whenAlive_next h
    obtain ⟨hv, h⟩ := require_next h
    obtain rfl := Host.Outcome.next.inj h
    exact ⟨.inr hs, .restored blob rfl hv⟩
  | wrCtrl1 d => exact lift (effect_of_control 0 h rfl)
  | wrCtrl2 d => exact lift (effect_of_control 1 h rfl)
  | wrCtrl3 d => exact lift (effect_of_control 2 h rfl)
  | wrFreqLo1 d => exact lift (effect_of_store h (fun _ => rfl) (by decide))
  | wrFreqHi1 d => exact lift (effect_of_store h (fun _ => rfl) (by decide))
  | wrPwLo1 d => exact lift (effect_of_store h (fun _ => rfl) (by decide))
  | wrPwHi1 d => exact lift (effect_of_store h (fun _ => rfl) (by decide))
  | wrAd1 d => exact lift (effect_of_store h (fun _ => rfl) (by decide))
  | wrSr1 d => exact lift (effect_of_store h (fun _ => rfl) (by decide))
  | wrFreqLo2 d => exact lift (effect_of_store h (fun _ => rfl) (by decide))
  | wrFreqHi2 d => exact lift (effect_of_store h (fun _ => rfl) (by decide))
  | wrPwLo2 d => exact lift (effect_of_store h (fun _ => rfl) (by decide))
  | wrPwHi2 d => exact lift (effect_of_store h (fun _ => rfl) (by decide))
  | wrAd2 d => exact lift (effect_of_store h (fun _ => rfl) (by decide))
  | wrSr2 d => exact lift (effect_of_store h (fun _ => rfl) (by decide))
  | wrFreqLo3 d => exact lift (effect_of_store h (fun _ => rfl) (by decide))
  | wrFreqHi3 d => exact lift (effect_of_store h (fun _ => rfl) (by decide))
  | wrPwLo3 d => exact lift (effect_of_store h (fun _ => rfl) (by decide))
  | wrPwHi3 d => exact lift (effect_of_store h (fun _ => rfl) (by decide))
  | wrAd3 d => exact lift (effect_of_store h (fun _ => rfl) (by decide))
  | wrSr3 d => exact lift (effect_of_store h (fun _ => rfl) (by decide))
  | wrFcLo d => exact lift (effect_of_store h (fun _ => rfl) (by decide))
  | wrFcHi d => exact lift (effect_of_store h (fun _ => rfl) (by decide))
  | wrResFilt d => exact lift (effect_of_store h (fun _ => rfl) (by decide))
  | wrModeVol d => exact lift (effect_of_store h (fun _ => rfl) (by decide))
  | wrPotX d => exact lift (effect_of_store h (fun _ => rfl) (by decide))
  | wrPotY d => exact lift (effect_of_store h (fun _ => rfl) (by decide))
  | wrOsc3 d => exact lift (effect_of_store h (fun _ => rfl) (by decide))
  | wrEnv3 d => exact lift (effect_of_store h (fun _ => rfl) (by decide))
  | rdFreqLo1 => exact lift (effect_of_read h rfl)
  | rdFreqHi1 => exact lift (effect_of_read h rfl)
  | rdPwLo1 => exact lift (effect_of_read h rfl)
  | rdPwHi1 => exact lift (effect_of_read h rfl)
  | rdCtrl1 => exact lift (effect_of_read h rfl)
  | rdAd1 => exact lift (effect_of_read h rfl)
  | rdSr1 => exact lift (effect_of_read h rfl)
  | rdFreqLo2 => exact lift (effect_of_read h rfl)
  | rdFreqHi2 => exact lift (effect_of_read h rfl)
  | rdPwLo2 => exact lift (effect_of_read h rfl)
  | rdPwHi2 => exact lift (effect_of_read h rfl)
  | rdCtrl2 => exact lift (effect_of_read h rfl)
  | rdAd2 => exact lift (effect_of_read h rfl)
  | rdSr2 => exact lift (effect_of_read h rfl)
  | rdFreqLo3 => exact lift (effect_of_read h rfl)
  | rdFreqHi3 => exact lift (effect_of_read h rfl)
  | rdPwLo3 => exact lift (effect_of_read h rfl)
  | rdPwHi3 => exact lift (effect_of_read h rfl)
  | rdCtrl3 => exact lift (effect_of_read h rfl)
  | rdAd3 => exact lift (effect_of_read h rfl)
  | rdSr3 => exact lift (effect_of_read h rfl)
  | rdFcLo => exact lift (effect_of_read h rfl)
  | rdFcHi => exact lift (effect_of_read h rfl)
  | rdResFilt => exact lift (effect_of_read h rfl)
  | rdModeVol => exact lift (effect_of_read h rfl)
  | rdPotX => exact lift (effect_of_read h rfl)
  | rdPotY => exact lift (effect_of_read h rfl)
  | rdOsc3 => exact lift (effect_of_read h rfl)
  | rdEnv3 => exact lift (effect_of_read h rfl)

end Sys2Proof.Machine
end

