-- ==== Sys2Proof/Laws/Filter.lean ====
section
/-! SUPPORT. Sys2Proof/Laws/Filter.lean: the filter, the mixer and the external filter over one cycle, by the two enables
(spec/44_filter.md, spec/45_external_filter.md). -/

namespace Sys2Proof.Machine

open Sys2Proof Sys2Proof.Safety

theorem s32_toInt_wrap (x : Int) : (s32 x).toInt = wrap32 x := by
  rw [s32, BitVec.toInt_ofInt]
  rfl

@[simp] theorem w0Entry_unmeasured (m : ChipModel) (fc : BitVec 11) : w0Entry .unmeasured m fc = Config.w0Table m fc :=
  rfl

@[simp] theorem w0Entry_given_A (a b : Vector Nat 2048) (fc : BitVec 11) :
    w0Entry (.given a b) .A fc = a[fc.toNat]'fc.isLt := rfl

@[simp] theorem w0Entry_given_B (a b : Vector Nat 2048) (fc : BitVec 11) :
    w0Entry (.given a b) .B fc = b[fc.toNat]'fc.isLt := rfl

/-- The filter inputs depend on the registers, the voices, the variant and the external input alone. -/
theorem filterIn_congr {u t : State} (hr : t.regs = u.regs) (hv : t.voices = u.voices) (hp : t.variant = u.variant)
    (hx : t.extIn = u.extIn) (k : Fin 4) : filterIn t k = filterIn u k := by
  cases u
  cases t
  cases hr
  cases hv
  cases hp
  cases hx
  rfl

/-- The inputs that the filter sees in a cycle are those of the state after it. -/
theorem cycleStep_filterIn (s : State) (k : Fin 4) : filterIn (cycleStep s) k = filterIn (voiceStages s) k :=
  filterIn_congr (by rw [cycleStep_regs]; rfl) (cycleStep_voices s) (by rw [cycleStep_variant]; rfl)
    (by rw [cycleStep_extIn]; rfl) k

theorem cycleStep_filt (s : State) : (cycleStep s).filt = (voiceStages s).filt := by
  rw [State.filt, State.reg, cycleStep_regs]
  rfl

theorem filteredSum_eq (s : State) : filteredSum s = routedSum s := by
  rw [filteredSum, sumInputs, routedSum, Fin.sum_univ_four]
  rfl

theorem drySum_eq (s : State) : drySum s = unroutedSum s := by
  have h : ∀ k : Fin 4, (if (!routed s k) = true then filterIn s k else 0) =
      if s.filt.getLsbD k then 0 else filterIn s k := by
    intro k
    simp only [routed, Fin.getElem_fin, ← BitVec.getLsbD_eq_getElem]
    cases s.filt.getLsbD k <;> rfl
  rw [drySum, sumInputs, unroutedSum, Fin.sum_univ_four]
  simp only [h]

theorem q1024_eq (s : State) : q1024 s = resonances.getD s.res.toNat 0 := by
  have all : ∀ r : BitVec 4, ((Params.q1024Table[r.toNat] : Nat) : Int) = resonances.getD r.toNat 0 := by decide
  exact all s.res

/-- A cycle with the filter enabled: the integrators. -/
theorem cycleStep_filter_on {s : State} (h : s.filterEn = true) :
    (cycleStep s).bp = bandPass (cutoffCoeff s) (voiceStages s) ∧
      (cycleStep s).lp = lowPass (cutoffCoeff s) (voiceStages s) := by
  have hf : (voiceStages s).filterEn = true := h
  rcases Bool.eq_false_or_eq_true (voiceStages s).extEn with he | he
  · rw [cycleStep, outputStages_on_on hf he]
    exact ⟨rfl, rfl⟩
  · rw [cycleStep, outputStages_on_off hf he]
    exact ⟨rfl, rfl⟩

/-- A cycle with the filter disabled clears the integrators. -/
theorem cycleStep_filter_off {s : State} (h : s.filterEn = false) :
    (cycleStep s).bp = 0#32 ∧ (cycleStep s).lp = 0#32 := by
  have hf : (voiceStages s).filterEn = false := h
  rcases Bool.eq_false_or_eq_true (voiceStages s).extEn with he | he
  · rw [cycleStep, outputStages_off_on hf he]
    exact ⟨rfl, rfl⟩
  · rw [cycleStep, outputStages_off_off hf he]
    exact ⟨rfl, rfl⟩

/-- A cycle with the external filter enabled. -/
theorem cycleStep_ext_on {s : State} (h : s.extEn = true) :
    (cycleStep s).extHp = (extEnabled (filterStep (voiceStages s)).2 (voiceStages s)).extHp ∧
      (cycleStep s).extLp = (extEnabled (filterStep (voiceStages s)).2 (voiceStages s)).extLp ∧
      (cycleStep s).extOut = (cycleStep s).extLp := by
  have he : (voiceStages s).extEn = true := h
  rcases Bool.eq_false_or_eq_true (voiceStages s).filterEn with hf | hf
  · rw [cycleStep, outputStages_on_on hf he, filterStep, if_pos hf]
    exact ⟨rfl, rfl, rfl⟩
  · rw [cycleStep, outputStages_off_on hf he, filterStep, if_neg (by rw [hf]; exact Bool.false_ne_true)]
    exact ⟨rfl, rfl, rfl⟩

/-- A cycle with the external filter disabled. -/
theorem cycleStep_ext_off {s : State} (h : s.extEn = false) :
    (cycleStep s).extHp = 0#32 ∧ (cycleStep s).extLp = 0#32 ∧
      (cycleStep s).extOut = (filterStep (voiceStages s)).2 := by
  have he : (voiceStages s).extEn = false := h
  rcases Bool.eq_false_or_eq_true (voiceStages s).filterEn with hf | hf
  · rw [cycleStep, outputStages_on_off hf he, filterStep, if_pos hf]
    exact ⟨rfl, rfl, rfl⟩
  · rw [cycleStep, outputStages_off_off hf he, filterStep, if_neg (by rw [hf]; exact Bool.false_ne_true)]
    exact ⟨rfl, rfl, rfl⟩

end Sys2Proof.Machine
end

