-- ==== Sys2Proof/Laws/PerInstr.lean ====
section
/-! SUPPORT. Sys2Proof/Laws/PerInstr.lean: the family `TableRow`: the word of every command, masked, is its row's match in
spec/opcode_table.json, with every operand at every value (spec/30_encoding.md R70, R88). -/

namespace Sys2Proof.Laws

open Sys2Proof

namespace TableRow

/-- The `match` of a row of spec/opcode_table.json and its `mask`. -/
def row : Instr → Word × Word
  | .wrFreqLo1 _ => (0x0000#16, 0xFF00#16)
  | .wrFreqHi1 _ => (0x0100#16, 0xFF00#16)
  | .wrPwLo1 _ => (0x0200#16, 0xFF00#16)
  | .wrPwHi1 _ => (0x0300#16, 0xFF00#16)
  | .wrCtrl1 _ => (0x0400#16, 0xFF00#16)
  | .wrAd1 _ => (0x0500#16, 0xFF00#16)
  | .wrSr1 _ => (0x0600#16, 0xFF00#16)
  | .wrFreqLo2 _ => (0x0700#16, 0xFF00#16)
  | .wrFreqHi2 _ => (0x0800#16, 0xFF00#16)
  | .wrPwLo2 _ => (0x0900#16, 0xFF00#16)
  | .wrPwHi2 _ => (0x0A00#16, 0xFF00#16)
  | .wrCtrl2 _ => (0x0B00#16, 0xFF00#16)
  | .wrAd2 _ => (0x0C00#16, 0xFF00#16)
  | .wrSr2 _ => (0x0D00#16, 0xFF00#16)
  | .wrFreqLo3 _ => (0x0E00#16, 0xFF00#16)
  | .wrFreqHi3 _ => (0x0F00#16, 0xFF00#16)
  | .wrPwLo3 _ => (0x1000#16, 0xFF00#16)
  | .wrPwHi3 _ => (0x1100#16, 0xFF00#16)
  | .wrCtrl3 _ => (0x1200#16, 0xFF00#16)
  | .wrAd3 _ => (0x1300#16, 0xFF00#16)
  | .wrSr3 _ => (0x1400#16, 0xFF00#16)
  | .wrFcLo _ => (0x1500#16, 0xFF00#16)
  | .wrFcHi _ => (0x1600#16, 0xFF00#16)
  | .wrResFilt _ => (0x1700#16, 0xFF00#16)
  | .wrModeVol _ => (0x1800#16, 0xFF00#16)
  | .wrPotX _ => (0x1900#16, 0xFF00#16)
  | .wrPotY _ => (0x1A00#16, 0xFF00#16)
  | .wrOsc3 _ => (0x1B00#16, 0xFF00#16)
  | .wrEnv3 _ => (0x1C00#16, 0xFF00#16)
  | .rdFreqLo1 => (0x4000#16, 0xFFFF#16)
  | .rdFreqHi1 => (0x4100#16, 0xFFFF#16)
  | .rdPwLo1 => (0x4200#16, 0xFFFF#16)
  | .rdPwHi1 => (0x4300#16, 0xFFFF#16)
  | .rdCtrl1 => (0x4400#16, 0xFFFF#16)
  | .rdAd1 => (0x4500#16, 0xFFFF#16)
  | .rdSr1 => (0x4600#16, 0xFFFF#16)
  | .rdFreqLo2 => (0x4700#16, 0xFFFF#16)
  | .rdFreqHi2 => (0x4800#16, 0xFFFF#16)
  | .rdPwLo2 => (0x4900#16, 0xFFFF#16)
  | .rdPwHi2 => (0x4A00#16, 0xFFFF#16)
  | .rdCtrl2 => (0x4B00#16, 0xFFFF#16)
  | .rdAd2 => (0x4C00#16, 0xFFFF#16)
  | .rdSr2 => (0x4D00#16, 0xFFFF#16)
  | .rdFreqLo3 => (0x4E00#16, 0xFFFF#16)
  | .rdFreqHi3 => (0x4F00#16, 0xFFFF#16)
  | .rdPwLo3 => (0x5000#16, 0xFFFF#16)
  | .rdPwHi3 => (0x5100#16, 0xFFFF#16)
  | .rdCtrl3 => (0x5200#16, 0xFFFF#16)
  | .rdAd3 => (0x5300#16, 0xFFFF#16)
  | .rdSr3 => (0x5400#16, 0xFFFF#16)
  | .rdFcLo => (0x5500#16, 0xFFFF#16)
  | .rdFcHi => (0x5600#16, 0xFFFF#16)
  | .rdResFilt => (0x5700#16, 0xFFFF#16)
  | .rdModeVol => (0x5800#16, 0xFFFF#16)
  | .rdPotX => (0x5900#16, 0xFFFF#16)
  | .rdPotY => (0x5A00#16, 0xFFFF#16)
  | .rdOsc3 => (0x5B00#16, 0xFFFF#16)
  | .rdEnv3 => (0x5C00#16, 0xFFFF#16)
  | .create => (0x8000#16, 0xFFFF#16)
  | .release => (0x8001#16, 0xFFFF#16)
  | .reset => (0x8002#16, 0xFFFF#16)
  | .setChipModel _ => (0x8003#16, 0xFFFF#16)
  | .enableFilter _ => (0x8004#16, 0xFFFF#16)
  | .enableExtFilter _ => (0x8005#16, 0xFFFF#16)
  | .setSamplingParameters _ _ _ _ _ => (0x8006#16, 0xFFFF#16)
  | .adjustSamplingFrequency _ => (0x8007#16, 0xFFFF#16)
  | .clock1 => (0x8008#16, 0xFFFF#16)
  | .clockN _ => (0x8009#16, 0xFFFF#16)
  | .clockSamples _ _ _ _ => (0x800A#16, 0xFFFF#16)
  | .input _ => (0x800B#16, 0xFFFF#16)
  | .output => (0x800C#16, 0xFFFF#16)
  | .outputBits _ => (0x800D#16, 0xFFFF#16)
  | .readState => (0x800E#16, 0xFFFF#16)
  | .writeState _ => (0x800F#16, 0xFFFF#16)

/-- The command word of the instruction lies in its row of the table. -/
def Statement (i : Instr) : Prop := (encode i).word &&& (row i).2 = (row i).1

/-- Masking a BUS-W word by 0xFF00 drops the data byte. -/
theorem busWriteWord_and (a : BitVec 5) (d : Byte) : busWriteWord a d &&& 0xFF00#16 = busWriteWord a 0#8 := by
  have bit : ∀ (e : Byte) (i : Nat), (busWriteWord a e).getLsbD i =
      if i < 8 then e.getLsbD i else (0b000#3 ++ a).getLsbD (i - 8) := fun _ _ => BitVec.getLsbD_append
  have mask : ∀ i : Fin 16, (0xFF00#16).getLsbD i = decide (8 ≤ i.val) := by decide
  apply BitVec.eq_of_getLsbD_eq
  intro i hi
  have hm : (0xFF00#16).getLsbD i = decide (8 ≤ i) := mask ⟨i, hi⟩
  rw [BitVec.getLsbD_and, bit, bit, hm]
  by_cases h : i < 8
  · simp [h]
  · simp [h, Nat.le_of_not_lt h]

theorem wrFreqLo1 (d : Byte) : Statement (.wrFreqLo1 d) := busWriteWord_and 0#5 d

theorem wrFreqHi1 (d : Byte) : Statement (.wrFreqHi1 d) := busWriteWord_and 1#5 d

theorem wrPwLo1 (d : Byte) : Statement (.wrPwLo1 d) := busWriteWord_and 2#5 d

theorem wrPwHi1 (d : Byte) : Statement (.wrPwHi1 d) := busWriteWord_and 3#5 d

theorem wrCtrl1 (d : Byte) : Statement (.wrCtrl1 d) := busWriteWord_and 4#5 d

theorem wrAd1 (d : Byte) : Statement (.wrAd1 d) := busWriteWord_and 5#5 d

theorem wrSr1 (d : Byte) : Statement (.wrSr1 d) := busWriteWord_and 6#5 d

theorem wrFreqLo2 (d : Byte) : Statement (.wrFreqLo2 d) := busWriteWord_and 7#5 d

theorem wrFreqHi2 (d : Byte) : Statement (.wrFreqHi2 d) := busWriteWord_and 8#5 d

theorem wrPwLo2 (d : Byte) : Statement (.wrPwLo2 d) := busWriteWord_and 9#5 d

theorem wrPwHi2 (d : Byte) : Statement (.wrPwHi2 d) := busWriteWord_and 10#5 d

theorem wrCtrl2 (d : Byte) : Statement (.wrCtrl2 d) := busWriteWord_and 11#5 d

theorem wrAd2 (d : Byte) : Statement (.wrAd2 d) := busWriteWord_and 12#5 d

theorem wrSr2 (d : Byte) : Statement (.wrSr2 d) := busWriteWord_and 13#5 d

theorem wrFreqLo3 (d : Byte) : Statement (.wrFreqLo3 d) := busWriteWord_and 14#5 d

theorem wrFreqHi3 (d : Byte) : Statement (.wrFreqHi3 d) := busWriteWord_and 15#5 d

theorem wrPwLo3 (d : Byte) : Statement (.wrPwLo3 d) := busWriteWord_and 16#5 d

theorem wrPwHi3 (d : Byte) : Statement (.wrPwHi3 d) := busWriteWord_and 17#5 d

theorem wrCtrl3 (d : Byte) : Statement (.wrCtrl3 d) := busWriteWord_and 18#5 d

theorem wrAd3 (d : Byte) : Statement (.wrAd3 d) := busWriteWord_and 19#5 d

theorem wrSr3 (d : Byte) : Statement (.wrSr3 d) := busWriteWord_and 20#5 d

theorem wrFcLo (d : Byte) : Statement (.wrFcLo d) := busWriteWord_and 21#5 d

theorem wrFcHi (d : Byte) : Statement (.wrFcHi d) := busWriteWord_and 22#5 d

theorem wrResFilt (d : Byte) : Statement (.wrResFilt d) := busWriteWord_and 23#5 d

theorem wrModeVol (d : Byte) : Statement (.wrModeVol d) := busWriteWord_and 24#5 d

theorem wrPotX (d : Byte) : Statement (.wrPotX d) := busWriteWord_and 25#5 d

theorem wrPotY (d : Byte) : Statement (.wrPotY d) := busWriteWord_and 26#5 d

theorem wrOsc3 (d : Byte) : Statement (.wrOsc3 d) := busWriteWord_and 27#5 d

theorem wrEnv3 (d : Byte) : Statement (.wrEnv3 d) := busWriteWord_and 28#5 d

theorem rdFreqLo1 : Statement .rdFreqLo1 := rfl

theorem rdFreqHi1 : Statement .rdFreqHi1 := rfl

theorem rdPwLo1 : Statement .rdPwLo1 := rfl

theorem rdPwHi1 : Statement .rdPwHi1 := rfl

theorem rdCtrl1 : Statement .rdCtrl1 := rfl

theorem rdAd1 : Statement .rdAd1 := rfl

theorem rdSr1 : Statement .rdSr1 := rfl

theorem rdFreqLo2 : Statement .rdFreqLo2 := rfl

theorem rdFreqHi2 : Statement .rdFreqHi2 := rfl

theorem rdPwLo2 : Statement .rdPwLo2 := rfl

theorem rdPwHi2 : Statement .rdPwHi2 := rfl

theorem rdCtrl2 : Statement .rdCtrl2 := rfl

theorem rdAd2 : Statement .rdAd2 := rfl

theorem rdSr2 : Statement .rdSr2 := rfl

theorem rdFreqLo3 : Statement .rdFreqLo3 := rfl

theorem rdFreqHi3 : Statement .rdFreqHi3 := rfl

theorem rdPwLo3 : Statement .rdPwLo3 := rfl

theorem rdPwHi3 : Statement .rdPwHi3 := rfl

theorem rdCtrl3 : Statement .rdCtrl3 := rfl

theorem rdAd3 : Statement .rdAd3 := rfl

theorem rdSr3 : Statement .rdSr3 := rfl

theorem rdFcLo : Statement .rdFcLo := rfl

theorem rdFcHi : Statement .rdFcHi := rfl

theorem rdResFilt : Statement .rdResFilt := rfl

theorem rdModeVol : Statement .rdModeVol := rfl

theorem rdPotX : Statement .rdPotX := rfl

theorem rdPotY : Statement .rdPotY := rfl

theorem rdOsc3 : Statement .rdOsc3 := rfl

theorem rdEnv3 : Statement .rdEnv3 := rfl

theorem create : Statement .create := rfl

theorem release : Statement .release := rfl

theorem reset : Statement .reset := rfl

theorem setChipModel (model : Int) : Statement (.setChipModel model) :=
  show hostWord 0x03#8 &&& 0xFFFF#16 = 0x8003#16 by decide

theorem enableFilter (enable : Bool) : Statement (.enableFilter enable) :=
  show hostWord 0x04#8 &&& 0xFFFF#16 = 0x8004#16 by decide

theorem enableExtFilter (enable : Bool) : Statement (.enableExtFilter enable) :=
  show hostWord 0x05#8 &&& 0xFFFF#16 = 0x8005#16 by decide

theorem setSamplingParameters (clockFreq : Rat) (method : Int) (sampleFreq : Rat) (passFreq : Rat) (filterScale : Rat) : Statement (.setSamplingParameters clockFreq method sampleFreq passFreq filterScale) :=
  show hostWord 0x06#8 &&& 0xFFFF#16 = 0x8006#16 by decide

theorem adjustSamplingFrequency (sampleFreq : Rat) : Statement (.adjustSamplingFrequency sampleFreq) :=
  show hostWord 0x07#8 &&& 0xFFFF#16 = 0x8007#16 by decide

theorem clock1 : Statement .clock1 := rfl

theorem clockN (n : Int) : Statement (.clockN n) :=
  show hostWord 0x09#8 &&& 0xFFFF#16 = 0x8009#16 by decide

theorem clockSamples (deltaT : Int) (buf : List Sample) (n : Int) (interleave : Int) : Statement (.clockSamples deltaT buf n interleave) :=
  show hostWord 0x0A#8 &&& 0xFFFF#16 = 0x800A#16 by decide

theorem input (sample : Int) : Statement (.input sample) :=
  show hostWord 0x0B#8 &&& 0xFFFF#16 = 0x800B#16 by decide

theorem output : Statement .output := rfl

theorem outputBits (bits : Int) : Statement (.outputBits bits) :=
  show hostWord 0x0D#8 &&& 0xFFFF#16 = 0x800D#16 by decide

theorem readState : Statement .readState := rfl

theorem writeState (blob : List Byte) : Statement (.writeState blob) :=
  show hostWord 0x0F#8 &&& 0xFFFF#16 = 0x800F#16 by decide

end TableRow

end Sys2Proof.Laws
end

