-- ==== Sys2Proof/Laws/Relations.lean ====
section
/-! SUPPORT. Sys2Proof/Laws/Relations.lean: a cycle keeps each of the three relations of Sys2Proof/Safety.lean between two
states, and so does a sampling run. -/

namespace Sys2Proof.Safety

open Sys2Proof Sys2Proof.Machine

/-! ## States that differ in the read side's bytes alone -/

section ReadSide

variable {s s' : State} (h : SameButReadSide s s')

include h

theorem SameButReadSide.reg_eq {a : Fin 29} (ha : a.val < 25) : s'.reg a = s.reg a := h.low a ha

theorem SameButReadSide.voice_reg_eq (v : Fin 3) (k : Fin 7) : s'.reg (voiceAddr v k) = s.reg (voiceAddr v k) :=
  h.low _ (by simp only [voiceAddr]; omega)

theorem SameButReadSide.voices_eq : s'.voices = s.voices := by rw [h.rest]

theorem SameButReadSide.voice_eq (v : Fin 3) : s'.voice v = s.voice v := by
  rw [State.voice, h.voices_eq]
  rfl

theorem SameButReadSide.variant_eq : s'.variant = s.variant := by rw [h.rest]

theorem SameButReadSide.ctrl_eq (v : Fin 3) : s'.ctrl v = s.ctrl v := h.voice_reg_eq v 4

theorem SameButReadSide.freq_eq (v : Fin 3) : s'.freq v = s.freq v := by
  rw [State.freq, h.voice_reg_eq, h.voice_reg_eq]
  rfl

theorem SameButReadSide.pw_eq (v : Fin 3) : s'.pw v = s.pw v := by
  rw [State.pw, h.voice_reg_eq, h.voice_reg_eq]
  rfl

theorem SameButReadSide.test_eq (v : Fin 3) : s'.test v = s.test v := by
  rw [State.test, h.ctrl_eq]
  rfl

theorem SameButReadSide.sync_eq (v : Fin 3) : s'.sync v = s.sync v := by
  rw [State.sync, h.ctrl_eq]
  rfl

theorem SameButReadSide.ringBit_eq (v : Fin 3) : s'.ringBit v = s.ringBit v := by
  rw [State.ringBit, h.ctrl_eq]
  rfl

theorem SameButReadSide.sel_eq (v : Fin 3) : s'.sel v = s.sel v := by
  rw [State.sel, h.ctrl_eq]
  rfl

theorem SameButReadSide.tri_eq (v : Fin 3) : tri s' v = tri s v := by
  rw [tri, tri, h.voice_eq, h.voice_eq, h.variant_eq, h.ringBit_eq]

theorem SameButReadSide.wave_eq (v : Fin 3) : wave s' v = wave s v := by
  rw [wave, wave, h.sel_eq, h.tri_eq, saw, saw, pulse, pulse, noise, noise, saw, saw, h.tri_eq, h.voice_eq, h.variant_eq,
    h.ringBit_eq, h.pw_eq]

theorem SameButReadSide.oscAdvance_eq : oscAdvance s' = oscAdvance s := by
  funext v
  rw [oscAdvance, oscAdvance, h.test_eq, h.variant_eq, h.voice_eq, oscSum, oscSum, h.voice_eq, h.freq_eq]

theorem SameButReadSide.oscTrig_eq : oscTrig s' = oscTrig s := by
  funext v
  rw [oscTrig, oscTrig, h.test_eq, h.variant_eq, h.voice_eq, oscSum, oscSum, h.voice_eq, h.freq_eq]

theorem SameButReadSide.ratePeriod_eq (v : Fin 3) : ratePeriod s' v = ratePeriod s v := by
  rw [ratePeriod, ratePeriod, h.voice_eq, State.attack, State.decay, State.release, h.voice_reg_eq, h.voice_reg_eq]
  rfl

theorem SameButReadSide.envStep_eq : envStep s' = envStep s := by
  funext v
  rw [envStep, envStep, h.voice_eq, h.ratePeriod_eq, sustainLevel, sustainLevel, State.sustain, h.voice_reg_eq]
  rfl

theorem SameButReadSide.syncVoice_eq (trig : Fin 3 → Bool) : syncVoice trig s' = syncVoice trig s := by
  funext v
  rw [syncVoice, syncVoice, h.sync_eq, h.test_eq, h.voice_eq]

theorem SameButReadSide.withVoices (f : Fin 3 → Voice) : SameButReadSide (s.withVoices f) (s'.withVoices f) := by
  refine ⟨?_, h.low⟩
  conv => lhs; rw [h.rest]
  rfl

theorem SameButReadSide.voiceStages : SameButReadSide (voiceStages s) (voiceStages s') := by
  have h1 : SameButReadSide (oscStage s) (oscStage s') := by
    rw [oscStage, oscStage, h.oscAdvance_eq]
    exact h.withVoices _
  have h2 : SameButReadSide (envStage (oscStage s)) (envStage (oscStage s')) := by
    rw [envStage, envStage, h1.envStep_eq]
    exact h1.withVoices _
  rw [Machine.voiceStages, Machine.voiceStages, syncApply, syncApply, h.oscTrig_eq, h2.syncVoice_eq]
  exact h2.withVoices _

theorem SameButReadSide.voiceIn_eq (v : Fin 3) : voiceIn s' v = voiceIn s v := by
  rw [voiceIn, voiceIn, voiceOut, voiceOut, h.wave_eq, h.voice_eq]

theorem SameButReadSide.filterIn_eq (k : Fin 4) : filterIn s' k = filterIn s k := by
  have hx : s'.extIn = s.extIn := by rw [h.rest]
  have ho : s'.off3 = s.off3 := by rw [State.off3, h.reg_eq (by decide)]; rfl
  have hf : s'.filt = s.filt := by rw [State.filt, h.reg_eq (by decide)]; rfl
  fin_cases k
  · exact h.voiceIn_eq 0
  · exact h.voiceIn_eq 1
  · show (if s'.off3 && !s'.filt[2] then 0 else voiceIn s' 2) = if s.off3 && !s.filt[2] then 0 else voiceIn s 2
    rw [ho, hf, h.voiceIn_eq]
  · show externalIn s' = externalIn s
    rw [externalIn, externalIn, hx]

theorem SameButReadSide.sumInputs_eq (route : Fin 4 → Bool) : sumInputs route s' = sumInputs route s := by
  rw [sumInputs, sumInputs, h.filterIn_eq, h.filterIn_eq, h.filterIn_eq, h.filterIn_eq]

theorem SameButReadSide.outputStages : SameButReadSide (outputStages s) (outputStages s') := by
  have hf : s'.filterEn = s.filterEn := by rw [h.rest]
  have he : s'.extEn = s.extEn := by rw [h.rest]
  have hb : s'.bp = s.bp := by rw [h.rest]
  have hl : s'.lp = s.lp := by rw [h.rest]
  have hv : s'.vol = s.vol := by rw [State.vol, h.reg_eq (by decide)]; rfl
  have hm : s'.model = s.model := by rw [h.rest]
  have ht : s'.tables = s.tables := by rw [h.rest]
  have hfc : s'.fc = s.fc := by rw [State.fc, h.reg_eq (by decide), h.reg_eq (by decide)]; rfl
  have hres : s'.res = s.res := by rw [State.res, h.reg_eq (by decide)]; rfl
  have hfilt : s'.filt = s.filt := by rw [State.filt, h.reg_eq (by decide)]; rfl
  have hlp : s'.lpOn = s.lpOn := by rw [State.lpOn, h.reg_eq (by decide)]; rfl
  have hbp : s'.bpOn = s.bpOn := by rw [State.bpOn, h.reg_eq (by decide)]; rfl
  have hhp : s'.hpOn = s.hpOn := by rw [State.hpOn, h.reg_eq (by decide)]; rfl
  have hr : routed s' = routed s := by funext k; rw [routed, routed, hfilt]
  have hnr : (fun k => !routed s' k) = fun k => !routed s k := by rw [hr]
  have hw : cutoffCoeff s' = cutoffCoeff s := by rw [cutoffCoeff, ht, hm, hfc]; rfl
  have hhigh : highPass s' = highPass s := by
    have hq : q1024 s' = q1024 s := by
      unfold q1024
      congr 3
    rw [highPass, highPass, filteredSum, filteredSum, hr, h.sumInputs_eq, hl, hb, hq]
  have hband : ∀ w, bandPass w s' = bandPass w s := fun w => by rw [bandPass, bandPass, hb, hhigh]
  have hlow : ∀ w, lowPass w s' = lowPass w s := fun w => by rw [lowPass, lowPass, hb, hl]
  have hmix : ∀ w, mixer s' (drySum s' + tapSum w s') = mixer s (drySum s + tapSum w s) := fun w => by
    rw [mixer, mixer, drySum, drySum, hnr, h.sumInputs_eq, tapSum, tapSum, hlp, hbp, hhp, hband, hlow, hhigh, hv]
  have hmixd : mixer s' (sumInputs (fun _ => true) s') = mixer s (sumInputs (fun _ => true) s) := by
    rw [mixer, mixer, h.sumInputs_eq, hv]
  have hE : ∀ w, filterEnabled w s' = ({ (filterEnabled w s).1 with regs := s'.regs }, (filterEnabled w s).2) := by
    intro w
    rw [filterEnabled, hmix, hband, hlow]
    conv => lhs; rw [h.rest]
    rfl
  have hD : filterDisabled s' = ({ (filterDisabled s).1 with regs := s'.regs }, (filterDisabled s).2) := by
    rw [filterDisabled, hmixd]
    conv => lhs; rw [h.rest]
    rfl
  have hregs : (Machine.outputStages s').regs = s'.regs := by rw [outputStages_frame]
  have hregs' : ∀ a, (Machine.outputStages s).reg a = s.reg a := by
    intro a
    rw [State.reg, outputStages_frame]
    rfl
  refine ⟨?_, fun a ha => ?_⟩
  · rw [hregs]
    rcases Bool.eq_false_or_eq_true s.filterEn with hf1 | hf1 <;>
      rcases Bool.eq_false_or_eq_true s.extEn with he1 | he1
    · rw [outputStages_on_on (hf.trans hf1) (he.trans he1), outputStages_on_on hf1 he1, hw, hE]
      rfl
    · rw [outputStages_on_off (hf.trans hf1) (he.trans he1), outputStages_on_off hf1 he1, hw, hE]
      rfl
    · rw [outputStages_off_on (hf.trans hf1) (he.trans he1), outputStages_off_on hf1 he1, hD]
      rfl
    · rw [outputStages_off_off (hf.trans hf1) (he.trans he1), outputStages_off_off hf1 he1, hD]
      rfl
  · rw [hregs', State.reg, hregs]
    exact h.low a ha

theorem SameButReadSide.cycleStep : SameButReadSide (cycleStep s) (cycleStep s') := h.voiceStages.outputStages

end ReadSide

/-! ## States that differ in the ring alone, or in what the filter reaches -/

section Voices

variable {s s' : State} (hr : s'.regs = s.regs) (hv : s'.voices = s.voices) (hp : s'.variant = s.variant)

include hr hv hp

/-- The voices after stages 1 to 3 depend on the registers, the voices and the variant alone. -/
theorem voiceStages_voices_congr : (voiceStages s').voices = (voiceStages s).voices := by
  cases s
  cases s'
  cases hr
  cases hv
  cases hp
  rfl

end Voices

theorem SameButFiltered.cycleStep {s s' : State} (h : SameButFiltered s s') :
    SameButFiltered (cycleStep s) (cycleStep s') := by
  have hv := voiceStages_voices_congr (s := s) (s' := s') (by rw [h]) (by rw [h]) (by rw [h])
  have hf := cycleStep_frame s'
  rw [hv] at hf
  generalize Machine.cycleStep s' = c' at hf ⊢
  rw [SameButFiltered, cycleStep_frame s]
  generalize c'.bp = bp, c'.lp = lp, c'.extHp = hp, c'.extLp = elp, c'.extOut = out at hf
  generalize ringSet s'.ring s'.ri.toNat (outSample c') = ring at hf
  subst hf
  cases s
  cases s'
  cases h
  rfl

theorem SameButRing.cycleStep {s s' : State} (h : SameButRing s s') :
    SameButRing (cycleStep s) (cycleStep s') := by
  have key : ∀ (q : Ring) (i : BitVec 14), outputStages { voiceStages s with ring := q, ri := i } =
      { outputStages (voiceStages s) with
        ring := (outputStages { voiceStages s with ring := q, ri := i }).ring
        ri := (outputStages { voiceStages s with ring := q, ri := i }).ri } := by
    intro q i
    generalize voiceStages s = u
    rcases Bool.eq_false_or_eq_true u.filterEn with hf | hf <;>
      rcases Bool.eq_false_or_eq_true u.extEn with he | he
    · rw [outputStages_on_on (s := { u with ring := q, ri := i }) hf he, outputStages_on_on hf he]
      rfl
    · rw [outputStages_on_off (s := { u with ring := q, ri := i }) hf he, outputStages_on_off hf he]
      rfl
    · rw [outputStages_off_on (s := { u with ring := q, ri := i }) hf he, outputStages_off_on hf he]
      rfl
    · rw [outputStages_off_off (s := { u with ring := q, ri := i }) hf he, outputStages_off_off hf he]
      rfl
  show Machine.cycleStep s' = _
  have hs : Machine.cycleStep s' = outputStages { voiceStages s with ring := s'.ring, ri := s'.ri } := by
    conv => lhs; rw [h]
    rfl
  rw [hs]
  exact key _ _

/-! ## Clocking and sampling runs -/

/-- A relation that every cycle keeps is kept by clocking. -/
theorem clock_rel {R : State → State → Prop} (hstep : ∀ s s', R s s' → R (cycleStep s) (cycleStep s')) (k : Nat)
    {s s' : State} (h : R s s') : R (clock k s) (clock k s') := by
  induction k generalizing s s' with
  | zero => exact h
  | succ k ih => exact ih (hstep s s' h)

/-- A relation that every sample and every tail keeps is kept by a run, which counts alike on both sides. -/
theorem pureRun_rel {m : SampleMethod} {R : State → State → Prop} {V : Sample → Sample → Prop}
    (hpos : ∀ s s', R s s' → s'.so = s.so ∧ s'.cps = s.cps)
    (hsample : ∀ s s' dts nso, 1 ≤ dts → R s s' →
      R (produceSample m dts nso s).1 (produceSample m dts nso s').1 ∧
        V (produceSample m dts nso s).2 (produceSample m dts nso s').2)
    (htail : ∀ s s' dt, R s s' → R (runTail m dt s) (runTail m dt s'))
    (cap dt : Nat) {s s' : State} (h : R s s') :
    R (pureRunOf m cap dt s).state (pureRunOf m cap dt s').state ∧
      List.Forall₂ V (pureRunOf m cap dt s).samples (pureRunOf m cap dt s').samples ∧
      (pureRunOf m cap dt s').remaining = (pureRunOf m cap dt s).remaining := by
  refine pureRun_induct (m := m)
    (P := fun cap dt s r => ∀ s', R s s' → R r.state (pureRunOf m cap dt s').state ∧
      List.Forall₂ V r.samples (pureRunOf m cap dt s').samples ∧ (pureRunOf m cap dt s').remaining = r.remaining)
    ?_ ?_ ?_ cap dt s s' h
  all_goals
    have hn : ∀ s s', R s s' → nextSo m s' = nextSo m s := fun s s' h => by
      rw [nextSo, nextSo, (hpos s s' h).1, (hpos s s' h).2]
    have hc : ∀ s s', R s s' → cyclesToSample m s' = cyclesToSample m s := fun s s' h => by
      rw [cyclesToSample, cyclesToSample, hn s s' h]
  · intro cap dt s hdt s' h
    rw [pureRunOf_tail (by rw [hc s s' h]; exact hdt)]
    exact ⟨htail s s' dt h, .nil, rfl⟩
  · intro dt s hdt s' h
    rw [pureRunOf_full (by rw [hc s s' h]; exact hdt)]
    exact ⟨h, .nil, rfl⟩
  · intro cap dt s r hdt ih s' h
    rw [pureRunOf_sample (by rw [hc s s' h]; exact hdt), hc s s' h, hn s s' h]
    have hs := hsample s s' (cyclesToSample m s) (nextSo m s) (cyclesToSample_pos m s) h
    obtain ⟨h1, h2, h3⟩ := ih _ hs.1
    exact ⟨h1, .cons hs.2 h2, h3⟩

/-! ## The three relations over a run -/

theorem SameButReadSide.clock {s s' : State} (h : SameButReadSide s s') (k : Nat) :
    SameButReadSide (clock k s) (clock k s') := clock_rel (fun _ _ h => h.cycleStep) k h

theorem SameButFiltered.clock {s s' : State} (h : SameButFiltered s s') (k : Nat) :
    SameButFiltered (clock k s) (clock k s') := clock_rel (fun _ _ h => h.cycleStep) k h

theorem SameButRing.clock {s s' : State} (h : SameButRing s s') (k : Nat) :
    SameButRing (clock k s) (clock k s') := clock_rel (fun _ _ h => h.cycleStep) k h

/-- An update that does not touch the registers keeps the relation. -/
theorem SameButReadSide.update {s s' : State} (h : SameButReadSide s s') (f : State → State)
    (hf : ∀ u r, f { u with regs := r } = { f u with regs := r }) : SameButReadSide (f s) (f s') := by
  have h1 : f s' = { f s with regs := s'.regs } := by
    conv => lhs; rw [h.rest]
    exact hf _ _
  have h2 : (f s).regs = s.regs := by
    have same := congrArg State.regs (hf s s.regs)
    exact same
  refine ⟨by rw [h1], fun a ha => ?_⟩
  have low := h.low a ha
  rw [State.reg, State.reg] at low ⊢
  rw [h1, h2]
  exact low

/-- An update that does not touch the ring keeps the relation. -/
theorem SameButRing.update {s s' : State} (h : SameButRing s s') (f : State → State)
    (hf : ∀ q i, SameButRing (f s) (f { s with ring := q, ri := i })) : SameButRing (f s) (f s') := by
  rw [SameButRing] at h
  rw [h]
  exact hf _ _

/-- What a sampling run moves besides the cycles' own fields, set alike on both sides or, for `sprev`, at will. -/
theorem SameButFiltered.moved {s s' : State} (h : SameButFiltered s s') (x : S32) (y y' : Sample) :
    SameButFiltered { s with so := x, sprev := y } { s' with so := x, sprev := y' } := by
  rw [SameButFiltered] at h ⊢
  rw [h]

theorem forall2_eq {xs ys : List Sample} (h : List.Forall₂ (fun a b => b = a) xs ys) : ys = xs := by
  induction h with
  | nil => rfl
  | cons h _ ih => rw [h, ih]

theorem SameButReadSide.run (m : SampleMethod) (cap dt : Nat) {s s' : State} (h : SameButReadSide s s') :
    SameButReadSide (pureRunOf m cap dt s).state (pureRunOf m cap dt s').state ∧
      (pureRunOf m cap dt s').samples = (pureRunOf m cap dt s).samples ∧
      (pureRunOf m cap dt s').remaining = (pureRunOf m cap dt s).remaining := by
  have out : ∀ {u u' : State}, SameButReadSide u u' → outSample u' = outSample u := fun h => by
    rw [h.rest]
    rfl
  have moved : ∀ {u u' : State}, SameButReadSide u u' → ∀ (x : S32) (y : Sample),
      SameButReadSide { u with so := x, sprev := y } { u' with so := x, sprev := y } := fun h x y =>
    h.update (fun u => { u with so := x, sprev := y }) fun _ _ => rfl
  have prev : ∀ {u u' : State}, SameButReadSide u u' → u'.sprev = u.sprev := fun h => by rw [h.rest]
  obtain ⟨a, b, c⟩ := pureRun_rel (m := m) (R := SameButReadSide) (V := fun a b => b = a)
    (fun s s' h => by rw [h.rest]; exact ⟨rfl, rfl⟩)
    (fun s s' dts nso hd h => by
      constructor
      · rw [produceSample_state m hd, produceSample_state m hd]
        have e : prevAfterSample m dts s' = prevAfterSample m dts s := by
          cases m with
          | interpolate => exact out (h.clock _)
          | decimate => exact prev h
          | resample _ => exact prev h
        rw [e]
        exact moved (h.clock dts) _ _
      · rw [produceSample_value m hd, produceSample_value m hd]
        cases m with
        | decimate => exact out (h.clock _)
        | interpolate =>
          have e : ∀ {u u' : State}, SameButReadSide u u' → interpolateValue u' = interpolateValue u := fun h => by
            rw [h.rest]
            rfl
          rw [sampleValue, sampleValue, out (h.clock (dts - 1))]
          exact e (moved (h.clock dts) _ _)
        | resample fir =>
          have e : ∀ {u u' : State}, SameButReadSide u u' → resampleValue fir u' = resampleValue fir u := fun h => by
            rw [h.rest]
            rfl
          exact e ((h.clock dts).update (fun u => { u with so := soAfter (.resample fir) nso }) fun _ _ => rfl))
    (fun s s' dt h => by
      have e : prevAfterTail m dt s' = prevAfterTail m dt s := by
        cases m with
        | interpolate =>
          rw [prevAfterTail, prevAfterTail, out (h.clock _), prev h]
        | decimate => exact prev h
        | resample _ => exact prev h
      rw [runTail_state, runTail_state, e, show s'.so = s.so by rw [h.rest]]
      exact moved (h.clock dt) _ _) cap dt h
  exact ⟨a, forall2_eq b, c⟩

theorem SameButFiltered.run (m : SampleMethod) (cap dt : Nat) {s s' : State} (h : SameButFiltered s s') :
    SameButFiltered (pureRunOf m cap dt s).state (pureRunOf m cap dt s').state ∧
      (pureRunOf m cap dt s').samples.length = (pureRunOf m cap dt s).samples.length ∧
      (pureRunOf m cap dt s').remaining = (pureRunOf m cap dt s).remaining := by
  obtain ⟨a, b, c⟩ := pureRun_rel (m := m) (R := SameButFiltered) (V := fun _ _ => True)
    (fun s s' h => by rw [h]; exact ⟨rfl, rfl⟩)
    (fun s s' dts nso hd h => by
      rw [produceSample_state m hd, produceSample_state m hd]
      exact ⟨(h.clock dts).moved _ _ _, trivial⟩)
    (fun s s' dt h => by
      rw [runTail_state, runTail_state, show s'.so = s.so by rw [h]]
      exact (h.clock dt).moved _ _ _) cap dt h
  exact ⟨a, b.length_eq.symm, c⟩

theorem SameButRing.run (m : SampleMethod) (hm : isResample m = false) (cap dt : Nat) {s s' : State}
    (h : SameButRing s s') :
    SameButRing (pureRunOf m cap dt s).state (pureRunOf m cap dt s').state ∧
      (pureRunOf m cap dt s').samples = (pureRunOf m cap dt s).samples ∧
      (pureRunOf m cap dt s').remaining = (pureRunOf m cap dt s).remaining := by
  have out : ∀ {u u' : State}, SameButRing u u' → outSample u' = outSample u := fun h => by
    rw [h]
    rfl
  have moved : ∀ {u u' : State}, SameButRing u u' → ∀ (x : S32) (y : Sample),
      SameButRing { u with so := x, sprev := y } { u' with so := x, sprev := y } := fun h x y =>
    h.update (fun u => { u with so := x, sprev := y }) fun _ _ => rfl
  have prev : ∀ {u u' : State}, SameButRing u u' → u'.sprev = u.sprev := fun h => by rw [h]
  obtain ⟨a, b, c⟩ := pureRun_rel (m := m) (R := SameButRing) (V := fun a b => b = a)
    (fun s s' h => by rw [h]; exact ⟨rfl, rfl⟩)
    (fun s s' dts nso hd h => by
      constructor
      · rw [produceSample_state m hd, produceSample_state m hd]
        have e : prevAfterSample m dts s' = prevAfterSample m dts s := by
          cases m with
          | interpolate => exact out (h.clock _)
          | decimate => exact prev h
          | resample _ => cases hm
        rw [e]
        exact moved (h.clock dts) _ _
      · rw [produceSample_value m hd, produceSample_value m hd]
        cases m with
        | decimate => exact out (h.clock _)
        | interpolate =>
          rw [sampleValue, sampleValue, out (h.clock (dts - 1)), interpolateValue, interpolateValue,
            out (moved (h.clock dts) _ _)]
        | resample _ => cases hm)
    (fun s s' dt h => by
      have e : prevAfterTail m dt s' = prevAfterTail m dt s := by
        cases m with
        | interpolate =>
          rw [prevAfterTail, prevAfterTail, out (h.clock _), prev h]
        | decimate => exact prev h
        | resample _ => cases hm
      rw [runTail_state, runTail_state, e, show s'.so = s.so by rw [h]]
      exact moved (h.clock dt) _ _) cap dt h
  exact ⟨a, forall2_eq b, c⟩

end Sys2Proof.Safety
end

