-- ==== Sys2Proof/Laws/Snapshot.lean ====
section
/-! SUPPORT. Sys2Proof/Laws/Snapshot.lean: little-endian fields in a blob, a voice's 16 bytes, and what a restore keeps
(spec/47_snapshot.md R290 to R292). -/

namespace Sys2Proof.Safety

open Sys2Proof Sys2Proof.Machine

/-! ## Reading a field of a blob -/

/-- A field past the first part is a field of the second. -/
theorem leNat_skip (k : Nat) {a b : List Byte} {off n : Nat} (ha : a.length = k) (h : k ≤ off) :
    leNat (a ++ b) off n = leNat b (off - k) n := by
  induction n generalizing off with
  | zero => rfl
  | succ n ih =>
    simp only [leNat]
    rw [ih (by omega), List.getD_append_right _ _ _ _ (by omega), ha, show off + 1 - k = off - k + 1 by omega]

/-- A field within the first part is a field of it. -/
theorem leNat_take {a b : List Byte} {off n : Nat} (h : off + n ≤ a.length) :
    leNat (a ++ b) off n = leNat a off n := by
  induction n generalizing off with
  | zero => rfl
  | succ n ih =>
    simp only [leNat]
    rw [ih (by omega), List.getD_append _ _ _ _ (by omega)]

theorem leNat_one (xs : List Byte) (off : Nat) : leNat xs off 1 = (xs.getD off 0#8).toNat := by
  simp only [leNat, Nat.mul_zero, Nat.add_zero]

theorem leBytes_length {w : Nat} (n : Nat) (x : BitVec w) : (leBytes n x).length = n := by
  simp only [leBytes, List.length_map, List.length_range]

/-- The bytes of x, read from byte k on. -/
theorem leNat_leBytes {w : Nat} (N n : Nat) (x : BitVec w) (k : Nat) (h : k + n ≤ N) :
    leNat (leBytes N x) k n = x.toNat / 256 ^ k % 256 ^ n := by
  induction n generalizing k with
  | zero => simp only [leNat, Nat.pow_zero, Nat.mod_one]
  | succ n ih =>
    have hk : (leBytes N x).getD k 0#8 = x.extractLsb' (8 * k) 8 := by
      rw [List.getD_eq_getElem _ _ (by rw [leBytes_length]; omega)]
      simp only [leBytes, List.getElem_map, List.getElem_range]
    have e : 256 ^ (n + 1) = 256 * 256 ^ n := Nat.pow_succ'
    simp only [leNat]
    rw [ih (k + 1) (by omega), hk, BitVec.extractLsb'_toNat, Nat.shiftRight_eq_div_pow, e, Nat.pow_mul,
      Nat.pow_succ 256 k, ← Nat.div_div_eq_div_mul]
    exact (Nat.mod_mul).symm

/-- The `n` bytes of x hold it modulo 256^n. -/
theorem leNat_leBytes_all {w : Nat} (n : Nat) (x : BitVec w) : leNat (leBytes n x) 0 n = x.toNat % 256 ^ n := by
  rw [leNat_leBytes n n x 0 (by omega), Nat.pow_zero, Nat.div_one]

theorem leNat_reserved (n k off : Nat) : leNat (reserved k) off n = 0 := by
  induction n generalizing off with
  | zero => rfl
  | succ n ih =>
    have h : (reserved k).getD off 0#8 = 0#8 := by
      rw [reserved, List.getD_eq_getElem?_getD, List.getElem?_replicate]
      split <;> rfl
    simp only [leNat, ih, h]
    rfl

theorem byteAt_toNat (b : List Byte) (off : Nat) : (byteAt b off).toNat = leNat b off 1 := (leNat_one b off).symm

theorem u16At_toNat (b : List Byte) (off : Nat) : (u16At b off).toNat = leNat b off 2 := by
  rw [u16At, append_toNat, byteAt, byteAt]
  simp only [leNat]
  omega

theorem u24At_toNat (b : List Byte) (off : Nat) : (u24At b off).toNat = leNat b off 3 := by
  rw [u24At, append_toNat, append_toNat, byteAt, byteAt, byteAt]
  simp only [leNat, Nat.add_assoc, Nat.reduceAdd]
  omega

theorem u32At_toNat (b : List Byte) (off : Nat) : (u32At b off).toNat = leNat b off 4 := by
  rw [u32At, append_toNat, append_toNat, append_toNat, byteAt, byteAt, byteAt, byteAt]
  simp only [leNat, Nat.add_assoc, Nat.reduceAdd]
  omega

/-! ## A voice's bytes -/

theorem voiceBlock_length (x : Voice) : (voiceBlock x).length = 16 := by
  simp only [voiceBlock, List.length_append, leBytes_length, reserved, List.length_replicate, List.length_cons,
    List.length_nil]

/-- The fields of a voice's block. -/
theorem voiceBlock_fields (x : Voice) (rest : List Byte) :
    leNat (voiceBlock x ++ rest) 0 3 = x.acc.toNat ∧ leNat (voiceBlock x ++ rest) 3 3 = x.lfsr.toNat ∧
      leNat (voiceBlock x ++ rest) 6 1 = x.level.toNat ∧ leNat (voiceBlock x ++ rest) 7 1 = x.phase.toByte.toNat ∧
      leNat (voiceBlock x ++ rest) 8 2 = x.rc.toNat ∧ leNat (voiceBlock x ++ rest) 10 1 = x.exp.toNat ∧
      leNat (voiceBlock x ++ rest) 11 5 = 0 := by
  have b1 := x.acc.isLt
  have b2 := x.lfsr.isLt
  have b3 := x.rc.isLt
  have b4 := x.exp.isLt
  have l1 := leBytes_length 3 x.acc
  have l2 := leBytes_length 3 x.lfsr
  have l3 := leBytes_length 2 x.rc
  have l4 := leBytes_length 1 x.exp
  have l5 : (reserved 5).length = 5 := rfl
  simp only [voiceBlock, List.append_assoc]
  refine ⟨?_, ?_, ?_, ?_, ?_, ?_, ?_⟩
  · rw [leNat_take (by omega), leNat_leBytes_all]
    omega
  · rw [leNat_skip 3 l1 (by omega), leNat_take (by omega), leNat_leBytes_all]
    omega
  all_goals rw [leNat_skip 3 l1 (by omega), leNat_skip 3 l2 (by omega)]
  · rfl
  · rfl
  all_goals rw [leNat_skip 2 rfl (by omega)]
  · rw [leNat_take (by omega), leNat_leBytes_all]
    omega
  all_goals rw [leNat_skip 2 l3 (by omega)]
  · rw [leNat_take (by omega), leNat_leBytes_all]
    omega
  · rw [leNat_skip 1 l4 (by omega), leNat_take (by omega), leNat_reserved]

/-- The phase byte, and back. -/
theorem Phase.ofByte_toByte (p : Phase) : Phase.ofByte p.toByte = p := by cases p <;> rfl

theorem Phase.toByte_ofByte {b : Byte} (h : b.toNat ≤ 2) : (Phase.ofByte b).toByte = b := by
  have all : ∀ b : Byte, b.toNat ≤ 2 → (Phase.ofByte b).toByte = b := by decide
  exact all b h

/-! ## A restore -/

/-- What a restore leaves, and what it keeps: the host's side, the variant, `alive`, the latches, the sampler's
configuration and the ring (R292). -/
theorem restore_frame (blob : List Byte) (s : State) :
    restore blob s =
      { s with
        regs := (restore blob s).regs
        voices := (restore blob s).voices
        bp := u32At blob 80
        lp := u32At blob 84
        extHp := u32At blob 88
        extLp := u32At blob 92
        extOut := u32At blob 96
        extIn := u16At blob 100
        so := u32At blob 102
        sprev := u16At blob 106 } := by
  simp only [restore]

theorem restore_reg (blob : List Byte) (s : State) (a : Fin 29) : (restore blob s).reg a = byteAt blob a.val := by
  simp only [State.reg, restore, Fin.getElem_fin, Vector.getElem_ofFn]

theorem restore_voice (blob : List Byte) (s : State) (v : Fin 3) :
    (restore blob s).voice v = restoreVoice s.variant.noiseModel blob v := by
  simp only [State.voice, restore]
  fin_cases v <;> rfl

theorem maskLfsr_toNat (m : Config.NoiseModel) (x : BitVec 24) :
    (maskLfsr m x).toNat = x.toNat % 2 ^ Params.noiseWidth m := by
  rw [maskLfsr, BitVec.toNat_ofNat]
  cases m <;> simp only [Params.noiseWidth] <;> omega

@[simp] theorem restore_cmds (b : List Byte) (s : State) : (restore b s).cmds = s.cmds := by simp only [restore]

@[simp] theorem restore_callerBuf (b : List Byte) (s : State) : (restore b s).callerBuf = s.callerBuf := by
  simp only [restore]

@[simp] theorem restore_createArgs (b : List Byte) (s : State) : (restore b s).createArgs = s.createArgs := by
  simp only [restore]

@[simp] theorem restore_variant (b : List Byte) (s : State) : (restore b s).variant = s.variant := by
  simp only [restore]

@[simp] theorem restore_tables (b : List Byte) (s : State) : (restore b s).tables = s.tables := by
  simp only [restore]

@[simp] theorem restore_alive (b : List Byte) (s : State) : (restore b s).alive = s.alive := by simp only [restore]

@[simp] theorem restore_ring (b : List Byte) (s : State) : (restore b s).ring = s.ring := by simp only [restore]

@[simp] theorem restore_ri (b : List Byte) (s : State) : (restore b s).ri = s.ri := by simp only [restore]

@[simp] theorem restore_model (b : List Byte) (s : State) : (restore b s).model = s.model := by simp only [restore]

@[simp] theorem restore_filterEn (b : List Byte) (s : State) : (restore b s).filterEn = s.filterEn := by
  simp only [restore]

@[simp] theorem restore_extEn (b : List Byte) (s : State) : (restore b s).extEn = s.extEn := by simp only [restore]

@[simp] theorem restore_method (b : List Byte) (s : State) : (restore b s).method = s.method := by
  simp only [restore]

@[simp] theorem restore_clockFreq (b : List Byte) (s : State) : (restore b s).clockFreq = s.clockFreq := by
  simp only [restore]

@[simp] theorem restore_sampleFreq (b : List Byte) (s : State) : (restore b s).sampleFreq = s.sampleFreq := by
  simp only [restore]

@[simp] theorem restore_passFreq (b : List Byte) (s : State) : (restore b s).passFreq = s.passFreq := by
  simp only [restore]

@[simp] theorem restore_filterScale (b : List Byte) (s : State) : (restore b s).filterScale = s.filterScale := by
  simp only [restore]

@[simp] theorem restore_cps (b : List Byte) (s : State) : (restore b s).cps = s.cps := by simp only [restore]

end Sys2Proof.Safety
end

