-- ==== Sys2Proof/Tests/Slice0.lean ====
section
/-! SUPPORT. Sys2Proof/Tests/Slice0.lean: the model's own tests. The expected values come from spec/: the words from the
layouts and tables of spec/30_encoding.md, the values of the steps from the vectors of spec/95_test_vectors.md, named in
each comment. Last, for every obligation with hypotheses, a witness that meets them. -/

namespace Sys2Proof.Tests

open Sys2Proof Sys2Proof.Machine Sys2Proof.Safety

set_option Elab.async false

/-! ## Helpers -/

/-- The command word alone. -/
def bare (w : Word) : Command := { word := w, operands := .bare }

/-- The outcome is a next state of which p holds. -/
def nextAnd (o : Machine.Outcome) (p : State → Bool) : Bool :=
  match o with
  | .next t => p t
  | .fault _ => false
  | .refused _ => false

/-- The outcome is a refusal with this reason. -/
def refusedWith (o : Machine.Outcome) (r : Refusal) : Bool :=
  match o with
  | .next _ => false
  | .fault _ => false
  | .refused q => decide (q = r)

/-- The state after CREATE with these bytes stored, no effect taken. -/
def withBytes (l : List (Fin 29 × Byte)) : State := l.foldl (fun s p => s.withReg p.1 p.2) State.reset

/-- A field of voice v changed, as a snapshot would. -/
def poke (v : Fin 3) (f : Voice → Voice) (s : State) : State := s.withVoice v (f (s.voice v))

/-- The step on a table word placed as the next command after reset. -/
def firstStep (w : Nat) : Machine.Outcome := step (State.reset.withFetchWord 16 w)

/-! ## Well-formedness: an ill-formed term for each check, and a well-formed one at the bound -/

theorem test_wf_count : (Instr.clockN (-1)).wf = false ∧ (Instr.clockN (2 ^ 31)).wf = false ∧
    (Instr.clockN (2 ^ 31 - 1)).wf = true := by decide

theorem test_wf_samples_counts : (Instr.clockSamples (-1) [] 0 1).wf = false ∧
    (Instr.clockSamples 0 [] (-1) 1).wf = false ∧ (Instr.clockSamples 0 [] 0 1).wf = true := by decide

theorem test_wf_interleave : (Instr.clockSamples 10 [] 0 0).wf = false ∧
    (Instr.clockSamples 10 [] 0 (2 ^ 31)).wf = false ∧ (Instr.clockSamples 10 [] 0 (2 ^ 31 - 1)).wf = true := by decide

theorem test_wf_buffer : (Instr.clockSamples 10 [0, 0, 0, 0] 5 1).wf = false ∧
    (Instr.clockSamples 10 [0, 0, 0, 0] 4 1).wf = true := by decide

theorem test_wf_bits : (Instr.outputBits 0).wf = false ∧ (Instr.outputBits 20).wf = false ∧
    (Instr.outputBits 19).wf = true := by decide

theorem test_wf_sample : (Instr.input 32768).wf = false ∧ (Instr.input (-32769)).wf = false ∧
    (Instr.input (-32768)).wf = true := by decide

theorem test_wf_model : (Instr.setChipModel 2).wf = false ∧ (Instr.setChipModel 1).wf = true := by decide

theorem test_wf_sample_freq : (Instr.adjustSamplingFrequency 0).wf = false ∧
    (Instr.adjustSamplingFrequency 48000).wf = true := by decide +kernel

theorem test_wf_blob : (Instr.writeState (List.replicate 111 0#8)).wf = false ∧
    (Instr.writeState ((List.replicate 112 0#8).set 39 3#8)).wf = false ∧
    (Instr.writeState ((List.replicate 112 0#8).set 39 2#8)).wf = true := by decide +kernel

/-! ## Decoding: the word of every row, written out from spec/30_encoding.md R70 -/

theorem test_decode_writes_voice1 :
    decode (bare 0b000_00000_10100101#16) = .ok (.wrFreqLo1 0xA5#8) ∧
    decode (bare 0b000_00001_10100101#16) = .ok (.wrFreqHi1 0xA5#8) ∧
    decode (bare 0b000_00010_10100101#16) = .ok (.wrPwLo1 0xA5#8) ∧
    decode (bare 0b000_00011_10100101#16) = .ok (.wrPwHi1 0xA5#8) ∧
    decode (bare 0b000_00100_10100101#16) = .ok (.wrCtrl1 0xA5#8) ∧
    decode (bare 0b000_00101_10100101#16) = .ok (.wrAd1 0xA5#8) ∧
    decode (bare 0b000_00110_10100101#16) = .ok (.wrSr1 0xA5#8) := by
  decide

theorem test_decode_writes_voice2 :
    decode (bare 0b000_00111_10100101#16) = .ok (.wrFreqLo2 0xA5#8) ∧
    decode (bare 0b000_01000_10100101#16) = .ok (.wrFreqHi2 0xA5#8) ∧
    decode (bare 0b000_01001_10100101#16) = .ok (.wrPwLo2 0xA5#8) ∧
    decode (bare 0b000_01010_10100101#16) = .ok (.wrPwHi2 0xA5#8) ∧
    decode (bare 0b000_01011_10100101#16) = .ok (.wrCtrl2 0xA5#8) ∧
    decode (bare 0b000_01100_10100101#16) = .ok (.wrAd2 0xA5#8) ∧
    decode (bare 0b000_01101_10100101#16) = .ok (.wrSr2 0xA5#8) := by
  decide

theorem test_decode_writes_voice3 :
    decode (bare 0b000_01110_10100101#16) = .ok (.wrFreqLo3 0xA5#8) ∧
    decode (bare 0b000_01111_10100101#16) = .ok (.wrFreqHi3 0xA5#8) ∧
    decode (bare 0b000_10000_10100101#16) = .ok (.wrPwLo3 0xA5#8) ∧
    decode (bare 0b000_10001_10100101#16) = .ok (.wrPwHi3 0xA5#8) ∧
    decode (bare 0b000_10010_10100101#16) = .ok (.wrCtrl3 0xA5#8) ∧
    decode (bare 0b000_10011_10100101#16) = .ok (.wrAd3 0xA5#8) ∧
    decode (bare 0b000_10100_10100101#16) = .ok (.wrSr3 0xA5#8) := by
  decide

theorem test_decode_writes_filter_and_read_side :
    decode (bare 0b000_10101_01011010#16) = .ok (.wrFcLo 0x5A#8) ∧
    decode (bare 0b000_10110_01011010#16) = .ok (.wrFcHi 0x5A#8) ∧
    decode (bare 0b000_10111_01011010#16) = .ok (.wrResFilt 0x5A#8) ∧
    decode (bare 0b000_11000_01011010#16) = .ok (.wrModeVol 0x5A#8) ∧
    decode (bare 0b000_11001_01011010#16) = .ok (.wrPotX 0x5A#8) ∧
    decode (bare 0b000_11010_01011010#16) = .ok (.wrPotY 0x5A#8) ∧
    decode (bare 0b000_11011_01011010#16) = .ok (.wrOsc3 0x5A#8) ∧
    decode (bare 0b000_11100_01011010#16) = .ok (.wrEnv3 0x5A#8) := by
  decide

theorem test_decode_reads_voice1 :
    decode (bare 0b010_00000_00000000#16) = .ok .rdFreqLo1 ∧
    decode (bare 0b010_00001_00000000#16) = .ok .rdFreqHi1 ∧
    decode (bare 0b010_00010_00000000#16) = .ok .rdPwLo1 ∧
    decode (bare 0b010_00011_00000000#16) = .ok .rdPwHi1 ∧
    decode (bare 0b010_00100_00000000#16) = .ok .rdCtrl1 ∧
    decode (bare 0b010_00101_00000000#16) = .ok .rdAd1 ∧
    decode (bare 0b010_00110_00000000#16) = .ok .rdSr1 := by
  decide

theorem test_decode_reads_voice2 :
    decode (bare 0b010_00111_00000000#16) = .ok .rdFreqLo2 ∧
    decode (bare 0b010_01000_00000000#16) = .ok .rdFreqHi2 ∧
    decode (bare 0b010_01001_00000000#16) = .ok .rdPwLo2 ∧
    decode (bare 0b010_01010_00000000#16) = .ok .rdPwHi2 ∧
    decode (bare 0b010_01011_00000000#16) = .ok .rdCtrl2 ∧
    decode (bare 0b010_01100_00000000#16) = .ok .rdAd2 ∧
    decode (bare 0b010_01101_00000000#16) = .ok .rdSr2 := by
  decide

theorem test_decode_reads_voice3 :
    decode (bare 0b010_01110_00000000#16) = .ok .rdFreqLo3 ∧
    decode (bare 0b010_01111_00000000#16) = .ok .rdFreqHi3 ∧
    decode (bare 0b010_10000_00000000#16) = .ok .rdPwLo3 ∧
    decode (bare 0b010_10001_00000000#16) = .ok .rdPwHi3 ∧
    decode (bare 0b010_10010_00000000#16) = .ok .rdCtrl3 ∧
    decode (bare 0b010_10011_00000000#16) = .ok .rdAd3 ∧
    decode (bare 0b010_10100_00000000#16) = .ok .rdSr3 := by
  decide

theorem test_decode_reads_filter_and_live :
    decode (bare 0b010_10101_00000000#16) = .ok .rdFcLo ∧
    decode (bare 0b010_10110_00000000#16) = .ok .rdFcHi ∧
    decode (bare 0b010_10111_00000000#16) = .ok .rdResFilt ∧
    decode (bare 0b010_11000_00000000#16) = .ok .rdModeVol ∧
    decode (bare 0b010_11001_00000000#16) = .ok .rdPotX ∧
    decode (bare 0b010_11010_00000000#16) = .ok .rdPotY ∧
    decode (bare 0b010_11011_00000000#16) = .ok .rdOsc3 ∧
    decode (bare 0b010_11100_00000000#16) = .ok .rdEnv3 := by
  decide

theorem test_decode_lifecycle_and_latches :
    decode (bare 0b100_00000_00000000#16) = .ok .create ∧
    decode { word := 0b100_00000_00000000#16, operands := .config .default } = .ok .create ∧
    decode (bare 0b100_00000_00000001#16) = .ok .release ∧
    decode (bare 0b100_00000_00000010#16) = .ok .reset ∧
    decode { word := 0b100_00000_00000011#16, operands := .model 1 } = .ok (.setChipModel 1) ∧
    decode { word := 0b100_00000_00000100#16, operands := .enable true } = .ok (.enableFilter true) ∧
    decode { word := 0b100_00000_00000101#16, operands := .enable false } = .ok (.enableExtFilter false) := by
  decide

theorem test_decode_sampler_and_clocking :
    decode { word := 0b100_00000_00000110#16, operands := .sampling 985248 2 44100 (some 19845) (some 1) } = .ok (.setSamplingParameters 985248 2 44100 19845 1) ∧
    decode { word := 0b100_00000_00000111#16, operands := .sampleFreq 48000 } = .ok (.adjustSamplingFrequency 48000) ∧
    decode (bare 0b100_00000_00001000#16) = .ok .clock1 ∧
    decode { word := 0b100_00000_00001001#16, operands := .count 512 } = .ok (.clockN 512) ∧
    decode { word := 0b100_00000_00001010#16, operands := .samples 100 [] 0 (some 2) } = .ok (.clockSamples 100 [] 0 2) := by
  decide +kernel

theorem test_decode_audio_and_snapshot :
    decode { word := 0b100_00000_00001011#16, operands := .sample (-5) } = .ok (.input (-5)) ∧
    decode (bare 0b100_00000_00001100#16) = .ok .output ∧
    decode { word := 0b100_00000_00001101#16, operands := .bits 8 } = .ok (.outputBits 8) ∧
    decode (bare 0b100_00000_00001110#16) = .ok .readState ∧
    decode { word := 0b100_00000_00001111#16, operands := .blob [1#8] } = .ok (.writeState [1#8]) := by
  decide

/-- Vectors X4, X5, X7, X10, X13, X14, X15 and the other reserved words at a bound (R75). -/
theorem test_reserved_words :
    [0x1D00#16, 0x1FFF#16, 0x2000#16, 0x3CFF#16, 0x4401#16, 0x4080#16, 0x5D00#16, 0x5F00#16, 0x6000#16, 0x8010#16,
      0x80FF#16, 0x8100#16, 0x9F00#16, 0xA000#16, 0xC000#16, 0xFFFF#16].all
      (fun w => decide (decode (bare w) = .error .reservedEncoding)) = true := by decide

/-- A record of another shape than the opcode fixes is refused by name (assumption 6). -/
theorem test_wrong_record : decode (bare 0x8009#16) = .error .operandShape ∧
    decode { word := 0x0421#16, operands := .count 1 } = .error .operandShape := by decide

/-! ## The step after reset -/

/-- R39: the ratio of the defaults. -/
theorem test_default_cps : cpsOf Params.defaultClockFreq Params.defaultSampleFreq = 1464154 := by decide +kernel

theorem test_first_step_writes : (List.finRange 29).all (fun a =>
    nextAnd (firstStep (0x100 * a.val + 0x5A)) fun t => decide (t.reg a = 0x5A#8)) = true := by decide +kernel

theorem test_first_step_reads : (List.range 29).all (fun a =>
    nextAnd (firstStep (0x4000 + 0x100 * a)) fun t =>
      decide (t.result = .byte (if a = 25 ∨ a = 26 then 0xFF#8 else 0#8))) = true := by decide +kernel

theorem test_first_step_host : (List.range 16).all (fun o =>
    nextAnd (firstStep (0x8000 + o)) fun t => decide (t.cmds = [])) = true := by decide +kernel

theorem test_first_step_reserved : refusedWith (firstStep 0x1D00) .reservedEncoding = true := by decide +kernel

/-! ## Register access (spec/95_test_vectors.md 2.1, 2.2) -/

/-- X16: bits 7:4 of PW_HI are unused. -/
theorem test_x16_pulse_width : (withBytes [(2, 0x34#8), (3, 0xF5#8)]).pw 0 = 0x534#12 := by decide +kernel

/-- X17. -/
theorem test_x17_cutoff : (withBytes [(21, 0xFF#8), (22, 0x12#8)]).fc = 0x097#11 := by decide +kernel

/-- X19: OFF3, LP and the volume. -/
theorem test_x19_mode : (withBytes [(24, 0x9F#8)]).off3 = true ∧ (withBytes [(24, 0x9F#8)]).lpOn = true ∧
    (withBytes [(24, 0x9F#8)]).bpOn = false ∧ (withBytes [(24, 0x9F#8)]).vol = 15#4 := by decide +kernel

/-- M2: the byte reads back whole. -/
theorem test_m2_read_back : nextAnd (exec .rdPwHi1 (withBytes [(3, 0xFF#8)]))
    (fun t => decide (t.result = .byte 0xFF#8)) = true := by decide +kernel

/-- M5: a write of OSC3 is not reflected by a read. -/
theorem test_m5_osc3 : nextAnd (exec .rdOsc3 (withBytes [(27, 0x55#8)]))
    (fun t => decide (t.result = .byte 0x00#8)) = true := by decide +kernel

/-- M9: OSC3 is bits 11:4 of the waveform of voice 3. -/
theorem test_m9_osc3 : nextAnd (exec .rdOsc3 (poke 2 (fun x => { x with acc := 0xABCDEF#24 }) (withBytes [(18, 0x20#8)])))
    (fun t => decide (t.result = .byte 0xAB#8)) = true := by decide +kernel

/-- M10: the first attack step comes at cycle 9. -/
theorem test_m10_env3 : nextAnd (exec (.wrCtrl3 0x01#8) State.reset) (fun s => nextAnd (exec (.clockN 9) s) fun t =>
    nextAnd (exec .rdEnv3 t) fun u => decide (u.result = .byte 0x01#8)) = true := by decide +kernel

/-- O13: TEST in the new byte takes effect at once. -/
theorem test_o13_test_at_write :
    nextAnd (exec (.wrCtrl1 0x08#8) (poke 0 (fun x => { x with acc := 0x123456#24, lfsr := 0x001#23 }) State.reset))
      (fun t => decide ((t.voice 0).acc = 0#24) && decide ((t.voice 0).lfsr = 0xFFF#23)) = true := by decide +kernel

/-- R108: a gate edge starts Attack and Release (the rule's example). -/
theorem test_gate_edges :
    nextAnd (exec (.wrCtrl1 0x21#8) (poke 0 (fun x => { x with rc := 5#15 }) (withBytes [(4, 0x20#8)])))
      (fun t => decide ((t.voice 0).phase = .attack) && decide ((t.voice 0).rc = 0#15) &&
        nextAnd (exec (.wrCtrl1 0x20#8) t) fun u => decide ((u.voice 0).phase = .release)) = true := by decide +kernel

/-! ## Oscillator (spec/95_test_vectors.md 2.3 to 2.5) -/

/-- O4: the accumulator wraps. -/
theorem test_o4_wrap : nextAnd (exec .clock1 (poke 0 (fun x => { x with acc := 0xFFFF00#24 })
    (withBytes [(0, 0xFF#8), (1, 0xFF#8)]))) (fun t => decide ((t.voice 0).acc = 0x00FEFF#24)) = true := by decide +kernel

/-- O9: the triangle folds when bit 23 is set. -/
theorem test_o9_triangle : tri (poke 0 (fun x => { x with acc := 0x923456#24 }) State.reset) 0 = 0xDB9#12 ∧
    tri (poke 0 (fun x => { x with acc := 0x123456#24 }) State.reset) 0 = 0x246#12 := by decide +kernel

/-- O11: all sixteen selectors. -/
theorem test_o11_selectors : (List.range 16).map (fun n =>
    (wave (poke 0 (fun x => { x with acc := 0x123456#24 })
      (withBytes [(3, 0x01#8), (4, BitVec.ofNat 8 (16 * n))])) 0).toNat) =
    [0x000, 0x246, 0x123, 0x002, 0xFFF, 0x246, 0x123, 0x002, 0xFF0, 0x240, 0x120, 0x000, 0xFF0, 0x240, 0x120,
      0x000] := by decide +kernel

/-- The noise sequence of DOC12 (2.4), and NZ4 and NZ5 for RESID23 (bits 11:4 of the output). -/
theorem test_noise_sequence : lfsrNext .doc12 0xFFF#23 = 0xFFE#23 ∧ lfsrNext .doc12 0xFFE#23 = 0xFFD#23 ∧
    lfsrNext .doc12 0xFF5#23 = 0xFEB#23 ∧ lfsrNext .doc12 0xD68#23 = 0xAD1#23 ∧
    lfsrNext .resid23 0x7FFFF8#23 = 0x7FFFF0#23 ∧ noiseOut .resid23 0x7FFFF8#23 = 0xFE#8 := by decide

/-- R1 and R2: the ring bit in the two modes. -/
theorem test_ring_modes :
    pulse (poke 2 (fun x => { x with acc := 0xC00000#24 }) (withBytes [(4, 0x44#8), (3, 0x08#8)])) 0 = 0x000#12 ∧
    pulse (poke 2 (fun x => { x with acc := 0x7FFFFF#24 }) (withBytes [(4, 0x44#8), (3, 0x08#8)])) 0 = 0xFFF#12 ∧
    tri { poke 0 (fun x => { x with acc := 0x123456#24 }) (poke 2 (fun x => { x with acc := 0x800000#24 })
      (withBytes [(4, 0x14#8)])) with
      variant := { Config.Variant.normative with ringMode := .triMsbXor } } 0 = 0xDB9#12 := by decide +kernel

/-- Three voices at freq 0x8000 with these accumulators and CONTROL bytes. -/
def syncState (a b c : BitVec 24) (x y z : Byte) : State :=
  poke 0 (fun o => { o with acc := a }) (poke 1 (fun o => { o with acc := b }) (poke 2 (fun o => { o with acc := c })
    (withBytes [(1, 0x80#8), (8, 0x80#8), (15, 0x80#8), (4, x), (11, y), (18, z)])))

/-- Y8: a sync does not propagate. -/
theorem test_y8_sync_chain : nextAnd (exec .clock1 (syncState 0x100000 0x200000 0xFF8000 2 2 2)) (fun t =>
    decide (((t.voice 0).acc, (t.voice 1).acc, (t.voice 2).acc) = (0x000000#24, 0x208000#24, 0x000000#24))) = true := by
  decide +kernel

/-- Y10. -/
theorem test_y10_sync : nextAnd (exec .clock1 (syncState 0xFF8000 0x100000 0 0 2 0)) (fun t =>
    decide (((t.voice 0).acc, (t.voice 1).acc, (t.voice 2).acc) = (0x000000#24, 0x000000#24, 0x008000#24))) = true := by
  decide +kernel

/-! ## Envelope (2.6) -/

/-- V9: at level 93 in Release the first event counts the sub-counter, the second one lowers the level. -/
theorem test_v9_release :
    nextAnd (exec .clock1 (poke 0 (fun x => { x with level := 93#8, rc := 8#15 }) State.reset)) (fun t =>
      decide ((t.voice 0).level = 93#8) && decide ((t.voice 0).exp = 1#5)) = true ∧
    nextAnd (exec .clock1 (poke 0 (fun x => { x with level := 93#8, rc := 8#15, exp := 1#5 }) State.reset)) (fun t =>
      decide ((t.voice 0).level = 92#8) && decide ((t.voice 0).exp = 0#5)) = true := by decide +kernel

/-- V7: the decay stops at the sustain level 0x88. -/
theorem test_v7_sustain :
    nextAnd (exec .clock1 (poke 0 (fun x => { x with level := 136#8, phase := .decayOrSustain, rc := 8#15 })
      (withBytes [(6, 0x80#8)]))) (fun t => decide ((t.voice 0).level = 136#8)) = true := by decide +kernel

/-! ## Filters and output (2.7, 2.8) -/

/-- Setup F0: voice 1 a saw at full level, its scaled output −3501, and the volume 15. -/
def setupF0 : State :=
  poke 0 (fun x => { x with acc := 0x123456#24, level := 255#8 }) (withBytes [(4, 0x20#8), (24, 0x0F#8)])

/-- F1: nothing routed. -/
theorem test_f1_dry : filterIn setupF0 0 = -3501 ∧ (filterEnabled 0 setupF0).2 = s32 (-52515) := by decide +kernel

/-- F2, the second cycle, with the coefficient 65504 of the stand-in table. -/
theorem test_f2_low_pass : (filterEnabled 65504 { setupF0 with
      regs := ((setupF0.regs.set 23 0x01#8).set 24 0x1F#8), bp := s32 (-219) }).2 = s32 (-210) ∧
    (filterEnabled 65504 { setupF0 with
      regs := ((setupF0.regs.set 23 0x01#8).set 24 0x1F#8), bp := s32 (-219) }).1.bp = s32 (-419) := by decide +kernel

/-- The stand-in of the filter vectors for one model: `32 × fc`. -/
def standInTable : Vector Nat 2048 := ⟨⟨(List.range 2048).map (32 * ·)⟩, by simp⟩

/-- The stand-in, for both models. -/
def standIn : Config.CutoffTables := .given standInTable standInTable

/-- The variant parameters at their other values (R7), with the stand-in tables. -/
def realEngine : Config.CreateArgs :=
  { variant := { ringMode := .triMsbXor, syncEdge := .msbRise, noiseModel := .resid23, gateResetsCounter := false }
    tables := standIn }

/-- A step that runs CREATE with these configuration arguments. -/
def stepCreate (args : Config.CreateArgs) : Machine.Outcome :=
  step { State.reset with cmds := [{ word := 0x8000#16, operands := .config args }] }

/-- F2, its first cycle, in an instance that CREATE gives the stand-in table: W = 65504. -/
theorem test_f2_created_with_table : nextAnd (stepCreate { variant := .normative, tables := standIn }) (fun t =>
    let u := { t with
      voices := setupF0.voices, extEn := false
      regs := ((((setupF0.regs.set 23 0x01#8).set 24 0x1F#8).set 21 0x07#8).set 22 0xFF#8) }
    decide (cutoffCoeff u = 65504) && nextAnd (exec .clock1 u) (fun x =>
      decide (x.bp = s32 (-219)) && decide (x.lp = 0) && decide (x.extOut = 0))) = true := by decide +kernel

/-- F18: the clamp. The tables of the two models are kept apart. -/
theorem test_f18_clamp :
    let s := State.created
      { variant := .normative, tables := .given (Vector.replicate 2048 200000) (Vector.replicate 2048 7) }
    cutoffCoeff s = 105414 ∧ cutoffCoeff { s with model := .B } = 7 := by decide +kernel

/-- V12: an instance created with `GATE_RESETS_COUNTER` = false keeps the rate counter at a gate-on write. -/
theorem test_v12_created_with_variant : nextAnd (stepCreate realEngine) (fun t =>
    nextAnd (exec (.wrCtrl1 0x01#8) (poke 0 (fun x => { x with rc := 500#15 }) t)) fun u =>
      decide ((u.voice 0).rc = 500#15)) = true := by decide +kernel

/-- G1: the external filter over one cycle, and the 16-bit output. -/
theorem test_g1_external : (extEnabled (s32 (-52515)) State.reset).extHp = s32 (-6) ∧
    (extEnabled (s32 (-52515)) State.reset).extLp = s32 (-5244) ∧ outScaleOf 16 (s32 (-5244)) = -476 := by decide +kernel

/-- G2: a cycle with both filters disabled, and the output at three depths. -/
theorem test_g2_outputs :
    nextAnd (exec .clock1 { setupF0 with filterEn := false, extEn := false }) (fun t =>
      decide (t.extOut = s32 (-52515)) &&
      nextAnd (exec .output t) (fun u => decide (u.result = .sample (-4774))) &&
      nextAnd (exec (.outputBits 8) t) (fun u => decide (u.result = .sample (-18))) &&
      nextAnd (exec (.outputBits 1) t) (fun u => decide (u.result = .sample 0))) = true := by decide +kernel

/-- The table of 2.8 at its ends. -/
theorem test_out_scale : outScaleOf 8 (s32 734220) = 127 ∧ outScaleOf 19 (s32 (-734220)) = -262144 ∧
    outScaleOf 16 (s32 (-46)) = -4 ∧ outScaleOf 8 (s32 360447) = 125 := by decide +kernel

/-- F11: an input of 800 at volume 15. -/
theorem test_f11_input : nextAnd (exec (.input 800) (withBytes [(24, 0x0F#8)])) (fun t =>
    decide (filterIn t 3 = 100)) = true := by decide +kernel

/-! ## Sampler and snapshot (2.10, 2.11) -/

/-- S15, S16 and S18. -/
theorem test_clock_samples_ends :
    nextAnd (exec (.clockSamples 0 (List.replicate 10 0#16) 10 1) State.reset) (fun t =>
      decide (t.result = .counts 0 0)) = true ∧
    nextAnd (exec (.clockSamples 100 [] 0 1) State.reset) (fun t => decide (t.result = .counts 0 100)) = true ∧
    nextAnd (exec (.clockSamples 10 (List.replicate 5 0#16) 5 1) State.reset) (fun t =>
      decide (t.result = .counts 0 0) && decide (t.so = s32 (-655360))) = true := by decide +kernel

/-- S19: one sample in 23 cycles. -/
theorem test_s19_decimate : nextAnd (exec (.clockSamples 23 [0#16] 1 1) State.reset) (fun t =>
    decide (t.result = .counts 1 0) && decide (t.so = s32 (-43174))) = true := by decide +kernel

/-- S3, S5, S8, S10 and S11: the checks of a configuration. -/
theorem test_sampling_valid : samplingValid 985248 0 48000 (-1) (97 / 100) = true ∧
    samplingValid 985248 2 7000 (-1) (97 / 100) = false ∧ samplingValid 985248 2 44100 30000 (97 / 100) = false ∧
    samplingValid 985248 2 44100 (-1) (89 / 100) = false ∧ samplingValid 32768 0 1 (-1) (97 / 100) = false ∧
    samplingValid 985248 5 44100 (-1) (97 / 100) = false := by decide +kernel

/-- S11b and S11c: ADJUST. -/
theorem test_adjust : nextAnd (exec (.adjustSamplingFrequency 48000) State.reset) (fun t => decide (t.cps = 1345192)) =
    true ∧ refusedWith (exec (.adjustSamplingFrequency 0) State.reset) .badSampleFreq = true := by decide +kernel

/-- T1: the snapshot after CREATE. -/
theorem test_t1_snapshot : snapshot State.reset = [35, 36, 39, 51, 52, 55, 67, 68, 71].foldl (fun b i =>
    b.set i (if i % 16 = 3 then 0xFF#8 else if i % 16 = 4 then 0x0F#8 else 2#8)) (List.replicate 112 0#8) := by
  decide +kernel

/-- T4: a phase byte of 3 is refused. -/
theorem test_t4_bad_phase : refusedWith (exec (.writeState ((snapshot State.reset).set 39 3#8)) State.reset)
    .badSnapshot = true := by decide +kernel

/-- T5: a zero noise register is restored. -/
theorem test_t5_zero_noise : nextAnd (exec (.writeState (((snapshot State.reset).set 35 0#8).set 36 0#8)) State.reset)
    (fun t => decide ((t.voice 0).lfsr = 0#23)) = true := by decide +kernel

/-- Z2 and Z3: refusals. -/
theorem test_refusals : nextAnd (exec .release State.reset) (fun t => refusedWith (exec .release t) .notAlive) = true ∧
    refusedWith (exec (.input 32768) State.reset) .badSample = true ∧
    refusedWith (exec (.setChipModel 2) State.reset) .badModel = true ∧
    refusedWith (exec (.clockN (2 ^ 31)) State.reset) .badCount = true ∧
    refusedWith (exec (.clockSamples 10 [] 5 0) State.reset) .badInterleave = true ∧
    refusedWith (exec (.clockSamples 10 [0, 0, 0, 0] 5 1) State.reset) .bufferTooSmall = true := by decide +kernel

/-! ## Witnesses: for every obligation with hypotheses, a state and operands that meet them -/

theorem witness_EncodeOfDecode : decode (bare 0x1CFF#16) = .ok (.wrEnv3 0xFF#8) := by decide

theorem witness_ReservedWordsRefused :
    ([0x1D00#16, 0x2000#16, 0x4001#16, 0x5D00#16, 0x8010#16, 0x8100#16, 0xC000#16, 0xFFFF#16].all fun w =>
      decide (ReservedWord w)) = true ∧
    ([0x0000#16, 0x1CFF#16, 0x4000#16, 0x5C00#16, 0x8000#16, 0x800F#16].all fun w =>
      decide ¬ReservedWord w) = true ∧
    { State.reset with cmds := [bare 0xC000#16] }.alive = true := by decide +kernel

theorem witness_StepRunsDecoded : { State.reset with cmds := [bare 0x0421#16] }.cmds = bare 0x0421#16 :: [] ∧
    decode (bare 0x0421#16) = .ok (.wrCtrl1 0x21#8) ∧ State.reset.cmds = [] := by decide +kernel

theorem witness_RefusedExactly :
    refusalOf .create { State.reset with alive := false } = none ∧
    refusalOf .release { State.reset with alive := false } = some .notAlive ∧
    refusalOf (.clockN (2 ^ 31 - 1)) State.reset = none ∧ refusalOf (.clockN (2 ^ 31)) State.reset = some .badCount ∧
    refusalOf (.clockSamples 0 [] 1 (2 ^ 31)) State.reset = some .badInterleave ∧
    refusalOf (.clockSamples 0 [] 1 1) State.reset = some .bufferTooSmall ∧
    refusalOf (.clockSamples 0 [0#16] 1 1) State.reset = none ∧
    refusalOf (.outputBits 19) State.reset = none ∧ refusalOf (.outputBits 20) State.reset = some .badBits ∧
    refusalOf (.input 32767) State.reset = none ∧ refusalOf (.input 32768) State.reset = some .badSample ∧
    refusalOf (.setChipModel 1) State.reset = none ∧ refusalOf (.setChipModel 2) State.reset = some .badModel ∧
    refusalOf (.writeState []) State.reset = some .badSnapshot ∧
    refusalOf (.adjustSamplingFrequency 985255) State.reset = none ∧
    refusalOf (.adjustSamplingFrequency 985256) State.reset = some .badSampleFreq ∧
    { State.reset with cmds := [bare 0xFFFF#16] }.cmds = bare 0xFFFF#16 :: [] ∧ ReservedWord 0xFFFF#16 := by decide +kernel

theorem witness_FrequencyWrites : State.reset.alive = true := rfl

theorem witness_PulseWidthWrites : State.reset.alive = true := rfl

/-- The four gate edges and both values of TEST. -/
theorem witness_ControlWrites : State.reset.alive = true ∧ State.reset.ctrl 0 = 0#8 ∧
    (withBytes [(4, 0x01#8)]).alive = true ∧ (withBytes [(4, 0x01#8)]).ctrl 0 = 1#8 ∧
    (0x09#8).getLsbD 0 = true ∧ (0x09#8).getLsbD 3 = true ∧ (0x06#8).getLsbD 0 = false ∧
    State.reset.variant.gateResetsCounter = true := by decide +kernel

theorem witness_EnvelopeRateWrites : State.reset.alive = true := rfl

theorem witness_FilterWrites : State.reset.alive = true := rfl

theorem witness_ReadSideWrites : (25, Instr.wrPotX) ∈ readSideWrites ∧ (28, Instr.wrEnv3) ∈ readSideWrites ∧
    State.reset.alive = true := ⟨.head _, .tail _ (.tail _ (.tail _ (.head _))), rfl⟩

theorem witness_ReadSideDoesNotInfluence :
    SameButReadSide State.reset (State.reset.withReg 25 0x55#8) ∧ Instr.clock1 ≠ .readState ∧
    ∃ t, exec .clock1 State.reset = .next t := ⟨⟨rfl, by decide +kernel⟩, by decide, _, rfl⟩

theorem witness_StoredReads : (0, Instr.rdFreqLo1) ∈ storedReads ∧ (24, Instr.rdModeVol) ∈ storedReads ∧
    State.reset.alive = true := by decide +kernel

theorem witness_LiveReads : State.reset.alive = true ∧ (State.reset.reg 18).toNat < 16 ∧
    (withBytes [(18, 0x0F#8)]).alive = true ∧ ((withBytes [(18, 0x0F#8)]).reg 18).toNat < 16 := by decide +kernel

theorem witness_WriteThenRead :
    (writeRow 24 0x9F#8 = some (.wrModeVol 0x9F#8) ∧ readRow 24 = some .rdModeVol ∧
      ∃ t t', exec (.wrModeVol 0x9F#8) State.reset = .next t ∧ exec .rdModeVol t = .next t') ∧
    (writeRow 25 0x9F#8 = some (.wrPotX 0x9F#8) ∧ readRow 25 = some .rdPotX ∧
      ∃ t t', exec (.wrPotX 0x9F#8) State.reset = .next t ∧ exec .rdPotX t = .next t') :=
  ⟨⟨rfl, rfl, _, _, rfl, rfl⟩, rfl, rfl, _, _, rfl, rfl⟩

theorem witness_PowerUpValues : State.reset.alive = true := rfl

theorem witness_ReleaseEndsInstance : State.reset.alive = true ∧ { State.reset with alive := false }.alive = false ∧
    (∃ t, exec .release State.reset = .next t) ∧ Instr.release ≠ .create :=
  ⟨rfl, rfl, ⟨_, rfl⟩, by decide⟩

theorem witness_ResetProperties : ∃ t t' u, exec .reset State.reset = .next t ∧
    SameConfig State.reset (State.reset.withReg 4 0xFF#8) ∧ exec .reset (State.reset.withReg 4 0xFF#8) = .next t' ∧
    (0x01#8).getLsbD 0 = true ∧ exec (wrCtrl 2 0x01#8) t = .next u :=
  ⟨_, _, _, rfl, ⟨rfl, rfl, rfl, rfl, rfl, rfl, rfl, rfl, rfl, rfl, rfl, rfl⟩, rfl, rfl, rfl⟩

theorem witness_ConfigurationLatches : State.reset.alive = true ∧ (2 : Int) ≠ 0 ∧ (2 : Int) ≠ 1 := by decide +kernel

theorem witness_InputLatch : State.reset.alive = true ∧ (-32768 ≤ (32767 : Int) ∧ (32767 : Int) ≤ 32767) ∧
    ¬(-32768 ≤ (32768 : Int) ∧ (32768 : Int) ≤ 32767) := by decide +kernel

theorem witness_OutputScaling : State.reset.alive = true ∧ 1 ≤ 19 ∧ 19 ≤ 19 ∧ ((0 : Int) < 1 ∨ 19 < (0 : Int)) ∧
    ((20 : Int) < 1 ∨ 19 < (20 : Int)) := by decide +kernel

theorem witness_ClockCommands : State.reset.alive = true ∧ CountOk 0 ∧ CountOk (2 ^ 31 - 1) ∧ ¬CountOk (-1) ∧
    ¬CountOk (2 ^ 31) := by decide +kernel

theorem witness_CycleAccuracy : State.reset.alive = true ∧ CountOk 0 ∧ CountOk 3 ∧
    (∃ t, exec (.clockSamples 22 [] 0 1) State.reset = .next t ∧ t.result = .counts 0 22) :=
  ⟨rfl, by decide, by decide, _, rfl, by decide +kernel⟩

theorem witness_ClockSamplesCompletes : State.reset.alive = true ∧ CountOk 0 ∧ CountOk (2 ^ 31 - 1) ∧ InterleaveOk 1 ∧
    InterleaveOk (2 ^ 31 - 1) ∧ (1 : Int) * 1 ≤ [0#16].length ∧
    (0 : Int) * (2 ^ 31 - 1) ≤ ([] : List Sample).length := by decide +kernel

theorem witness_BufferFrame : ∃ t, exec (.clockSamples 22 [7#16, 7#16] 1 2) State.reset = .next t ∧
    t.result = .counts 1 0 ∧ ∀ k, k < 1 → ((1 : Nat) : Int) ≠ k * 2 :=
  ⟨_, rfl, by decide +kernel, fun k _ => by omega⟩

/-- The state that a run with room for n samples leaves. -/
def afterSamples (dt n : Nat) (s : State) : State :=
  let r := runSamples dt n 1 { s with callerBuf := List.replicate n 0#16 }
  r.state.withResult (.counts r.written r.remaining)

theorem exec_samples (dt n : Nat) (s : State) (ha : s.alive = true)
    (h : (countInRange dt && countInRange n) = true) :
    exec (.clockSamples dt (List.replicate n 0#16) n 1) s = .next (afterSamples dt n s) := by
  show whenAlive s (require _ _ (require _ _ (require _ _ (clockSamplesRun _ _ _ _ s)))) = _
  rw [whenAlive, if_pos ha, require, if_pos h, require, if_pos (by decide), require, if_pos (by simp)]
  rfl

theorem witness_SplitRunsEqualOneRun : ∃ s' t u, Inv State.reset ∧ 1 ≤ (1 : Int) ∧
    exec (.clockSamples 22 [0#16] 1 1) State.reset = .next s' ∧ s'.result = .counts 1 0 ∧
    exec (.clockSamples 23 [0#16] 1 1) s' = .next t ∧ t.result = .counts 1 0 ∧
    exec (.clockSamples (22 + 23) [0#16, 0#16] (1 + 1) 1) State.reset = .next u :=
  ⟨(afterSamples 22 1 State.reset), (afterSamples 23 1 (afterSamples 22 1 State.reset)), (afterSamples 45 2 State.reset),
    by decide +kernel, by decide, exec_samples 22 1 _ rfl rfl, by decide +kernel,
    exec_samples 23 1 _ (by decide +kernel) rfl, by decide +kernel, exec_samples 45 2 _ rfl rfl⟩

/-- A state under INTERPOLATE. -/
def interpolating : State := { State.reset with method := .interpolate }

/-- A state under RESAMPLE, with a kernel of one tap in each of two rows. -/
def resampling : State := { State.reset with method := .resample { n := 1, res := 2, taps := [1#16, 2#16] } }

theorem witness_TailAndFullBuffer : Inv State.reset ∧ Inv interpolating ∧
    ((21 : Int) < dtsOf State.reset ∧ ∃ t, exec (.clockSamples 21 [] 0 1) State.reset = .next t) ∧
    ((21 : Int) < dtsOf interpolating ∧ ∃ t, exec (.clockSamples 21 [] 0 1) interpolating = .next t) ∧
    ((dtsOf State.reset : Int) ≤ 22 ∧ ∃ t, exec (.clockSamples 22 [] 0 1) State.reset = .next t) :=
  ⟨by decide +kernel, by decide +kernel, ⟨by decide +kernel, _, rfl⟩, ⟨by decide +kernel, _, rfl⟩, by decide +kernel, _, rfl⟩

theorem witness_DecimateSample : State.reset.method = .decimate ∧ 1 ≤ (1 : Int) ∧
    ∃ t, exec (.clockSamples (dtsOf State.reset) [0#16] 1 1) State.reset = .next t := by
  rw [show dtsOf State.reset = 22 by decide +kernel]
  exact ⟨rfl, by decide, _, rfl⟩

theorem witness_InterpolateSample : interpolating.method = .interpolate ∧ 1 ≤ (1 : Int) ∧
    ∃ t, exec (.clockSamples (dtsOf interpolating) [0#16] 1 1) interpolating = .next t := by
  rw [show dtsOf interpolating = 22 by decide +kernel]
  exact ⟨rfl, by decide, _, rfl⟩

theorem witness_ResampleSample : Inv resampling ∧ resampling.method = .resample { n := 1, res := 2, taps := [1#16, 2#16] } ∧
    1 ≤ (1 : Int) ∧ ∃ t, exec (.clockSamples (dtsOf resampling) [0#16] 1 1) resampling = .next t := by
  rw [show dtsOf resampling = 22 by decide +kernel]
  exact ⟨by decide +kernel, rfl, by decide, _, rfl⟩

theorem witness_RingHoldsOutputs : ringWf State.reset.ring = true ∧ 16384 ≤ 16384 ∧ 16383 < 16384 := by decide +kernel

theorem witness_SamplingParameters : State.reset.alive = true ∧ SamplingOk 985248 0 985248 (-1) 0 ∧
    SamplingOk 985248 2 44100 19845 1 ∧ SamplingOk 985248 2 44100 (-1) (9 / 10) ∧ ¬SamplingOk 985248 0 0 (-1) 1 ∧
    ¬SamplingOk 985248 2 44100 19846 1 :=
  ⟨rfl, by decide +kernel, by decide +kernel, by decide +kernel, by decide +kernel, by decide +kernel⟩

theorem witness_AdjustFrequency : State.reset.alive = true ∧ AdjustOk 985255 State.reset ∧ ¬AdjustOk 985256 State.reset ∧
    ¬AdjustOk 0 State.reset := by decide +kernel

/-- The three clauses, at an add that just wraps and one that just does not. -/
theorem witness_AccumulatorCycle :
    (∃ t, exec .clock1 (withBytes [(4, 0x08#8)]) = .next t) ∧ (withBytes [(4, 0x08#8)]).test 0 = true ∧
    (∃ t, exec .clock1 (syncState 0 0 0xFF8000 2 0 0) = .next t) ∧ (syncState 0 0 0xFF8000 2 0 0).test 0 = false ∧
    (syncState 0 0 0xFF8000 2 0 0).sync 0 = true ∧ addOf (syncState 0 0 0xFF8000 2 0 0) 2 = 2 ^ 24 ∧
    triggers (syncState 0 0 0xFF8000 2 0 0) (0 + 2) ∧ (∃ t, exec .clock1 (syncState 0 0 0xFF7FFF 2 0 0) = .next t) ∧
    ¬triggers (syncState 0 0 0xFF7FFF 2 0 0) (0 + 2) := by
  refine ⟨⟨_, rfl⟩, by decide +kernel, ⟨_, rfl⟩, by decide +kernel, by decide +kernel, by decide +kernel, ?_, ⟨_, rfl⟩, ?_⟩
  · exact ⟨by decide +kernel, show 2 ^ 24 ≤ addOf (syncState 0 0 0xFF8000 2 0 0) 2 by decide +kernel⟩
  · exact fun h => absurd (show 2 ^ 24 ≤ addOf (syncState 0 0 0xFF7FFF 2 0 0) 2 from h.2) (by decide +kernel)

/-- The state of NZ2 one cycle before the first shift, under a noise model. -/
def noiseState (m : Config.NoiseModel) : State :=
  poke 0 (fun x => { x with acc := 0x07F000#24, lfsr := Params.noiseSeed m })
    { withBytes [(1, 0x10#8)] with variant := { Config.Variant.normative with noiseModel := m } }

theorem witness_NoiseCycle :
    (LfsrInWidth State.reset ∧ (∃ t, exec .clock1 State.reset = .next t) ∧
      ¬((State.reset.voice 0).acc.toNat / 2 ^ 19 % 2 = 0 ∧ addOf State.reset 0 % 2 ^ 24 / 2 ^ 19 % 2 = 1)) ∧
    (LfsrInWidth (withBytes [(4, 0x08#8)]) ∧ (∃ t, exec .clock1 (withBytes [(4, 0x08#8)]) = .next t) ∧
      (withBytes [(4, 0x08#8)]).test 0 = true) ∧
    (LfsrInWidth (noiseState .doc12) ∧ (∃ t, exec .clock1 (noiseState .doc12) = .next t) ∧
      (noiseState .doc12).test 0 = false ∧ ((noiseState .doc12).voice 0).acc.toNat / 2 ^ 19 % 2 = 0 ∧
      addOf (noiseState .doc12) 0 % 2 ^ 24 / 2 ^ 19 % 2 = 1) ∧
    ((noiseState .resid23).variant.noiseModel = .resid23 ∧
      ((noiseState .resid23).voice 0).lfsr.toNat < 2 ^ Params.noiseWidth .resid23 ∧
      addOf (noiseState .resid23) 0 % 2 ^ 24 / 2 ^ 19 % 2 = 1) :=
  ⟨⟨by decide +kernel, ⟨_, rfl⟩, by decide +kernel⟩, ⟨by decide +kernel, ⟨_, rfl⟩, by decide +kernel⟩,
    ⟨by decide +kernel, ⟨_, rfl⟩, by decide +kernel⟩, by decide +kernel⟩

theorem witness_NoiseNeverLocks : LfsrInWidth State.reset ∧ (State.reset.voice 0).lfsr ≠ 0#23 ∧
    (∃ t, exec .clock1 State.reset = .next t) ∧ ∀ blob, Instr.clock1 ≠ .writeState blob :=
  ⟨by decide +kernel, by decide +kernel, ⟨_, rfl⟩, fun _ h => Instr.noConfusion h⟩

theorem witness_CombinedWaveforms : ((withBytes [(4, 0x0F#8)]).ctrl 0).toNat < 16 ∧
    16 ≤ ((withBytes [(4, 0x10#8)]).ctrl 0).toNat := by decide +kernel

theorem witness_ZeroFrequencyFreezes : (withBytes [(4, 0x20#8)]).freq 0 = 0#16 ∧ (withBytes [(4, 0x20#8)]).test 0 = false ∧
    (withBytes [(4, 0x20#8)]).sync 0 = false ∧ (withBytes [(4, 0x20#8)]).ringBit 0 = false := by decide +kernel

/-- Voice 1 in this phase with these counters. -/
def envState (p : Phase) (level : Byte) (rc : BitVec 15) (exp : BitVec 5) : State :=
  poke 0 (fun x => { x with phase := p, level := level, rc := rc, exp := exp }) State.reset

/-- The clauses: before the period and at it, in the three phases, and the two sides of the divisor. -/
theorem witness_EnvelopeCycle : (∃ t, exec .clock1 (envState .attack 253 7 0) = .next t) ∧
    (∃ t, exec .clock1 (envState .attack 254 8 0) = .next t) ∧
    (∃ t, exec .clock1 (envState .decayOrSustain 93 8 0) = .next t) ∧
    (∃ t, exec .clock1 (envState .release 93 8 1) = .next t) ∧
    periodOf (envState .attack 254 8 0) 0 = 9 ∧ periodOf (envState .decayOrSustain 93 8 0) 0 = 9 ∧
    periodOf (envState .release 93 8 1) 0 = 9 ∧ expDivisor 93 = 2 :=
  ⟨⟨_, rfl⟩, ⟨_, rfl⟩, ⟨_, rfl⟩, ⟨_, rfl⟩, by decide +kernel⟩

theorem witness_LevelMonotone : (∃ t, exec .clock1 (poke 0 (fun x => { x with phase := .attack }) State.reset) = .next t) ∧
    ((poke 0 (fun x => { x with phase := .attack }) State.reset).voice 0).phase = .attack ∧
    (∃ t, exec .clock1 State.reset = .next t) ∧ (State.reset.voice 0).phase ≠ .attack ∧
    (∃ t, exec .reset State.reset = .next t) ∧ (∃ t, exec (.wrAd1 0#8) State.reset = .next t) ∧
    clocks (.wrAd1 0#8) = false :=
  ⟨⟨_, rfl⟩, by decide +kernel, ⟨_, rfl⟩, by decide +kernel, ⟨_, rfl⟩, ⟨_, rfl⟩, rfl⟩

theorem witness_PhaseTransitions :
    (∃ t, exec (.wrCtrl1 0x01#8) State.reset = .next t ∧ (t.voice 0).phase ≠ (State.reset.voice 0).phase) ∧
    (∃ t, exec .clock1 (poke 0 (fun x => { x with phase := .attack, level := 254#8, rc := 8#15 }) State.reset) = .next t ∧
      (t.voice 0).phase ≠ .attack) :=
  ⟨⟨_, rfl, by decide +kernel⟩, _, rfl, by decide +kernel⟩

theorem witness_TerminalSilence : (State.reset.voice 0).phase = .release ∧ (State.reset.voice 0).level = 0#8 ∧
    (∃ t, exec (.clockN 3) State.reset = .next t) ∧ (∀ blob, Instr.clockN 3 ≠ .writeState blob) ∧
    ∀ d, Instr.clockN 3 = wrCtrl 0 d → State.reset.gate 0 = false → d.getLsbD 0 = false :=
  ⟨by decide +kernel, by decide +kernel, ⟨_, rfl⟩, (fun _ h => Instr.noConfusion h), fun _ h => Instr.noConfusion h⟩

theorem witness_AttackTiming : State.reset.variant.gateResetsCounter = true ∧ State.reset.gate 0 = false ∧
    (0x01#8).getLsbD 0 = true ∧ (State.reset.voice 0).level.toNat < 255 ∧
    (∃ t, exec (wrCtrl 0 0x01#8) State.reset = .next t) ∧ 2295 ≤ 9 * (255 - (State.reset.voice 0).level.toNat) :=
  ⟨by decide +kernel, by decide +kernel, rfl, by decide +kernel, ⟨_, rfl⟩, by decide +kernel⟩

/-- The counter one past the period, and the values of vector V12. -/
theorem witness_RateCounterOvershoot :
    periodOf (poke 0 (fun x => { x with rc := 10#15 }) State.reset) 0 <
      ((poke 0 (fun x => { x with rc := 10#15 }) State.reset).voice 0).rc.toNat ∧
    periodOf (poke 0 (fun x => { x with rc := 500#15 }) State.reset) 0 <
      ((poke 0 (fun x => { x with rc := 500#15 }) State.reset).voice 0).rc.toNat ∧ 32768 - 500 + 9 - 1 = 32276 := by
  decide +kernel

theorem witness_FilterInputs : (0 : Fin 4) ≠ 3 := by decide

/-- The filter enabled and disabled, the external filter disabled, the volume 0. -/
theorem witness_FilterCycle : (∃ t, exec .clock1 State.reset = .next t) ∧ State.reset.filterEn = true ∧
    State.reset.vol = 0#4 ∧ (∃ t, exec .clock1 { setupF0 with filterEn := false, extEn := false } = .next t) ∧
    { setupF0 with filterEn := false, extEn := false }.filterEn = false ∧
    { setupF0 with filterEn := false, extEn := false }.extEn = false ∧
    (∃ t, exec .clock1 { setupF0 with tables := standIn, model := .B } = .next t) ∧ setupF0.tables = .unmeasured :=
  ⟨⟨_, rfl⟩, rfl, by decide +kernel, ⟨_, rfl⟩, rfl, rfl, ⟨_, rfl⟩, rfl⟩

theorem witness_ExternalFilterCycle : (∃ t, exec .clock1 State.reset = .next t) ∧ State.reset.extEn = true ∧
    (∃ t, exec .clock1 { setupF0 with extEn := false } = .next t) ∧ { setupF0 with extEn := false }.extEn = false :=
  ⟨⟨_, rfl⟩, rfl, ⟨_, rfl⟩, rfl⟩

theorem witness_ModelReachesOnlyFilter : SameButFiltered State.reset { State.reset with model := .B, bp := 5#32 } ∧
    (∃ t, exec .clock1 State.reset = .next t) ∧ Instr.clock1 ≠ .output ∧ (∀ b, Instr.clock1 ≠ .outputBits b) ∧
    Instr.clock1 ≠ .readState :=
  ⟨rfl, ⟨_, rfl⟩, by decide, (fun _ h => Instr.noConfusion h), by decide⟩

theorem witness_SnapshotLayout : State.reset.alive = true := rfl

theorem witness_SnapshotRestore : State.reset.alive = true ∧ BlobOk (snapshot State.reset) ∧
    BlobOk ((List.replicate 112 0xFF#8).set 39 2#8 |>.set 55 2#8 |>.set 71 2#8) ∧
    ¬BlobOk ((snapshot State.reset).set 71 3#8) ∧ ¬BlobOk (List.replicate 111 0#8) := by decide +kernel

theorem witness_SnapshotClones : ∃ s' b t, LfsrInWidth setupF0 ∧ SameConfig setupF0 State.reset ∧
    exec .readState setupF0 = .next s' ∧ s'.result = .blob b ∧ exec (.writeState b) State.reset = .next t :=
  ⟨_, snapshot setupF0, (restore (snapshot setupF0) State.reset).withResult .none, by decide +kernel,
    ⟨rfl, rfl, rfl, rfl, rfl, rfl, rfl, rfl, rfl, rfl, rfl, rfl⟩, rfl, rfl, by
      show require (snapshotOk (snapshot setupF0)) .badSnapshot _ = _
      rw [show snapshotOk (snapshot setupF0) = true by decide +kernel]
      rfl⟩

theorem witness_RingUnreadOutsideResample :
    SameButRing State.reset { State.reset with ring := [(3, 7#16)], ri := 9#14 } ∧
    isResample State.reset.method = false ∧ ∃ t, exec .clock1 State.reset = .next t := ⟨rfl, rfl, _, rfl⟩

/-- For each clause a command that changes its field. -/
theorem witness_OnlyTheseCommandsChange :
    (∃ t, exec (.wrCtrl2 0x09#8) (envState .release 7 5 3) = .next t ∧ t.regs ≠ State.reset.regs ∧
      (t.voice 1).phase ≠ (State.reset.voice 1).phase) ∧
    (∃ t, exec (.wrCtrl1 0x09#8) (poke 0 (fun x => { x with acc := 1, lfsr := 1, rc := 1 }) State.reset) = .next t ∧
      (t.voice 0).acc ≠ 1 ∧ (t.voice 0).lfsr ≠ 1 ∧ (t.voice 0).rc ≠ 1) ∧
    (∃ t, exec .reset (envState .attack 7 5 3) = .next t ∧ (t.voice 0).level ≠ 7 ∧ (t.voice 0).exp ≠ 3) ∧
    (∃ t, exec (.input 5) State.reset = .next t ∧ t.extIn ≠ State.reset.extIn) ∧
    (∃ t, exec .clock1 { setupF0 with filterEn := false, extEn := false } = .next t ∧ t.extOut ≠ setupF0.extOut ∧
      t.ri ≠ setupF0.ri ∧ t.ring ≠ setupF0.ring) ∧
    (∃ t, exec .create
        { State.reset with createArgs := realEngine, so := 1, sprev := 1, alive := false, method := .interpolate, cps := 1 } = .next t ∧
      t.variant ≠ State.reset.variant ∧ t.tables ≠ State.reset.tables ∧ t.so ≠ 1 ∧ t.sprev ≠ 1 ∧ t.alive ≠ false ∧ t.method ≠ .interpolate ∧ t.cps ≠ 1) ∧
    (∃ t, exec (.setChipModel 1) State.reset = .next t ∧ t.model ≠ State.reset.model) ∧
    (∃ t, exec (.enableFilter false) State.reset = .next t ∧ t.filterEn ≠ State.reset.filterEn) ∧
    (∃ t, exec (.enableExtFilter false) State.reset = .next t ∧ t.extEn ≠ State.reset.extEn) ∧
    ∃ t, exec (.clockSamples 0 [1#16] 1 1) State.reset = .next t ∧ t.callerBuf ≠ State.reset.callerBuf :=
  ⟨⟨_, rfl, by decide +kernel⟩, ⟨_, rfl, by decide +kernel⟩, ⟨_, rfl, by decide +kernel⟩, ⟨_, rfl, by decide +kernel⟩,
    ⟨_, rfl, by decide +kernel⟩, ⟨_, rfl, by decide +kernel⟩, ⟨_, rfl, by decide +kernel⟩, ⟨_, rfl, by decide +kernel⟩,
    ⟨_, rfl, by decide +kernel⟩, ⟨_, rfl, by decide +kernel⟩⟩

theorem witness_StepKeepsInv : Inv State.reset ∧
    ∃ t, step (State.reset.withFetchWord 16 0x8008) = .next t := ⟨by decide +kernel, _, rfl⟩

end Sys2Proof.Tests
end

section
/-! What one step does with the host's stream, and O6. -/

namespace Sys2Proof.Machine

open Sys2Proof

/-! ## Taking a command -/

theorem State.fetch_of_cmds_nil {s : State} (h : s.cmds = []) : s.fetch = none := by
  simp only [State.fetch, h]

theorem State.fetch_of_cmds_cons {s : State} {c : Command} {rest : List Command} (h : s.cmds = c :: rest) :
    s.fetch = some (c, { s with cmds := rest, createArgs := createArgsOf c.operands }) := by
  simp only [State.fetch, h]

/-! ## The step, by what the stream holds -/

theorem step_of_cmds_nil {s : State} (h : s.cmds = []) : step s = .next s := by
  simp only [step, State.fetch_of_cmds_nil h]

theorem step_of_decode_ok {s : State} {c : Command} {rest : List Command} {i : Instr} (h : s.cmds = c :: rest)
    (hdec : decode c = .ok i) :
    step s = exec i { s with cmds := rest, createArgs := createArgsOf c.operands } := by
  simp only [step, State.fetch_of_cmds_cons h, hdec]

/-! ## The arguments beside a command -/

@[simp] theorem createArgsOf_config (args : Config.CreateArgs) : createArgsOf (.config args) = args := rfl

/-- A CREATE without configuration arguments is one of the normative hardware (spec/00_scope.md R7). -/
theorem createArgsOf_bare_variant : (createArgsOf .bare).variant =
    { ringMode := .pulseSign, syncEdge := .wrap, noiseModel := .doc12, gateResetsCounter := true } := rfl

/-- Settles O6: the clauses are the two cases of the stream and the two cases of the record. -/
theorem stepRunsDecoded : Obligations.StepRunsDecoded :=
  ⟨fun _ _ _ _ hcmds hdec => step_of_decode_ok hcmds hdec, createArgsOf_config, createArgsOf_bare_variant,
    fun _ hcmds => step_of_cmds_nil hcmds⟩

end Sys2Proof.Machine
end

section
/-! The values at power-up and what every step keeps of the state: O18, O59 and O60. -/

namespace Sys2Proof.Machine

open Sys2Proof Sys2Proof.Safety

/-! ## The state after CREATE and after RESET (spec/10_state.md R39) -/

@[simp] theorem State.created_reg (args : Config.CreateArgs) (a : Fin 29) : (State.created args).reg a = 0#8 :=
  Vector.getElem_replicate a.isLt

@[simp] theorem State.created_voice (args : Config.CreateArgs) (v : Fin 3) :
    (State.created args).voice v = Voice.initial args.variant.noiseModel :=
  Voices.get_ofFn _ v

theorem atPowerUp_created (args : Config.CreateArgs) : AtPowerUp (State.created args) where
  regs := State.created_reg args
  acc v := by rw [State.created_voice, Voice.initial]
  lfsr v := by rw [State.created_voice]; rfl
  level v := by rw [State.created_voice, Voice.initial]
  phase v := by rw [State.created_voice, Voice.initial]
  rc v := by rw [State.created_voice, Voice.initial]
  exp v := by rw [State.created_voice, Voice.initial]
  bp := rfl
  lp := rfl
  extHp := rfl
  extLp := rfl
  extOut := rfl
  extIn := rfl
  so := rfl
  sprev := rfl
  ring _ := rfl
  ri := rfl

/-- The column of R39 says nothing of the host's side, the tables, `alive`, the latches and the sampler's
configuration. -/
theorem atPowerUp_of_frame {s t : State} (h : AtPowerUp s)
    (ht : t = { s with
      cmds := t.cmds
      result := t.result
      callerBuf := t.callerBuf
      createArgs := t.createArgs
      tables := t.tables
      alive := t.alive
      model := t.model
      filterEn := t.filterEn
      extEn := t.extEn
      method := t.method
      clockFreq := t.clockFreq
      sampleFreq := t.sampleFreq
      passFreq := t.passFreq
      filterScale := t.filterScale
      cps := t.cps }) : AtPowerUp t := by
  obtain ⟨regs, acc, lfsr, level, phase, rc, exp, bp, lp, extHp, extLp, extOut, extIn, so, sprev, ring, ri⟩ := h
  rw [ht]
  exact ⟨regs, acc, lfsr, level, phase, rc, exp, bp, lp, extHp, extLp, extOut, extIn, so, sprev, ring, ri⟩

theorem defaultFilterScale_eq : Params.defaultFilterScale = 97 / 100 := by decide +kernel

/-- Settles O18: both commands leave a created state, up to the fields that are the host's or that RESET preserves. -/
theorem powerUpValues : Obligations.PowerUpValues := by
  refine ⟨rfl, fun s => ?_, fun s hs => ?_⟩
  · exact ⟨_, rfl, rfl, rfl, atPowerUp_of_frame (atPowerUp_created s.createArgs) rfl, rfl, rfl, rfl, rfl, rfl, rfl, rfl,
      defaultFilterScale_eq, rfl, rfl⟩
  · exact ⟨_, whenAlive_alive hs _, rfl, rfl, atPowerUp_of_frame (atPowerUp_created ⟨s.variant, s.tables⟩) rfl, hs, rfl,
      rfl, rfl, rfl, rfl, rfl, rfl, rfl, rfl⟩

/-! ## The invariant at power-up -/

/-- The ratio of the default configuration, exact (spec/46_sampler.md R251). -/
theorem cpsOf_default : cpsOf Params.defaultClockFreq Params.defaultSampleFreq = Params.defaultCps := by decide +kernel

theorem defaultClockFreq_pos : 0 < Params.defaultClockFreq := by decide +kernel

theorem defaultSampleFreq_pos : 0 < Params.defaultSampleFreq := by decide +kernel

theorem created_lfsrInWidth (args : Config.CreateArgs) : LfsrInWidth (State.created args) := fun v => by
  rw [State.created_voice]
  exact noiseSeed_width args.variant.noiseModel

theorem created_inv (args : Config.CreateArgs) : Inv (State.created args) := by
  refine ⟨rfl, created_lfsrInWidth args, rfl, defaultClockFreq_pos, defaultSampleFreq_pos, ?_, cpsOf_default.symm⟩
  show cpsInRange (cpsOf Params.defaultClockFreq Params.defaultSampleFreq) = true
  rw [cpsOf_default]
  decide

/-- Settles O59: the machine's reset is the created state of the default arguments. -/
theorem powerUpMeetsInv : Obligations.PowerUpMeetsInv := ⟨created_inv _, created_inv⟩

/-! ## The noise registers within their width (spec/10_state.md R24) -/

@[simp] theorem gateEdge_lfsr (resets old new : Bool) (x : Voice) : (gateEdge resets old new x).lfsr = x.lfsr :=
  (gateEdge_fields resets old new x).2.1

/-- A CONTROL write leaves a noise register as it is, or at the seed. -/
theorem ctrlEffect_lfsrInWidth (v : Fin 3) (old new : Byte) {s : State} (h : LfsrInWidth s) :
    LfsrInWidth (ctrlEffect v old new s) := by
  intro u
  show ((ctrlEffect v old new s).voice u).lfsr.toNat < 2 ^ Params.noiseWidth s.variant.noiseModel
  rw [ctrlEffect_voice]
  split
  · rw [gateEdge_lfsr]
    split
    · exact noiseSeed_width _
    · exact h v
  · exact h u

/-- WRITE_STATE masks what it stores in a noise register (spec/47_snapshot.md R292). -/
theorem restore_lfsrInWidth (blob : List Byte) (s : State) : LfsrInWidth (restore blob s) := by
  intro v
  rw [restore_voice, restore_variant]
  show (maskLfsr s.variant.noiseModel _).toNat < _
  rw [maskLfsr_toNat]
  exact Nat.mod_lt _ (Nat.two_pow_pos _)

/-! ## The ring in canonical form -/

theorem cycleStep_ringWf {s : State} (h : ringWf s.ring = true) : ringWf (cycleStep s).ring = true := by
  rw [cycleStep_ring]
  exact ringSet_keeps_wf h s.ri.isLt

theorem clock_ringWf (k : Nat) {s : State} (h : ringWf s.ring = true) : ringWf (clock k s).ring = true :=
  clock_induct (P := fun s => ringWf s.ring = true) (fun _ h => cycleStep_ringWf h) k h

/-! ## The sampler's configuration (spec/46_sampler.md R251 to R256) -/

/-- A ratio in range is not negative, so `cps` holds it exactly. -/
theorem toNat_of_cpsInRange {c : Int} (h : cpsInRange c = true) : (c.toNat : Int) = c := by
  simp only [cpsInRange, Bool.and_eq_true, decide_eq_true_eq] at h
  exact Int.toNat_of_nonneg (le_trans (Int.natCast_nonneg _) h.1)

theorem Fir.firLength_pos (fc fs pass : Float) : 0 < Fir.firLength fc fs pass :=
  Nat.lt_of_lt_of_le Nat.one_pos Nat.right_le_or

theorem Fir.firRows_pos (fc fs : Float) : 0 < Fir.firRows fc fs := Nat.two_pow_pos _

/-- A built kernel has a row of `fir_N` taps for each of its `fir_RES` rows (R255), whatever the taps are. -/
theorem Fir.build_firOk (fc fs pass scale : Rat) : firOk (.resample (Fir.build fc fs pass scale)) = true := by
  have hlen : (Fir.build fc fs pass scale).taps.length =
      (Fir.build fc fs pass scale).n * (Fir.build fc fs pass scale).res := by
    simp [Fir.build, List.length_flatMap, Nat.mul_comm]
  simp only [firOk, Bool.and_eq_true, decide_eq_true_eq]
  exact ⟨⟨Fir.firLength_pos _ _ _, Fir.firRows_pos _ _⟩, hlen⟩

theorem methodOf_firOk (fc : Rat) (m : Int) (fs pass scale : Rat) : firOk (methodOf fc m fs pass scale) = true := by
  unfold methodOf
  split
  · rfl
  · split
    · rfl
    · exact Fir.build_firOk _ _ _ _

/-- What an accepted configuration has of the invariant: positive frequencies, and a ratio in range (R253). -/
theorem samplingValid_frequencies {fc : Rat} {m : Int} {fs pass scale : Rat}
    (h : samplingValid fc m fs pass scale = true) : 0 < fc ∧ 0 < fs ∧ cpsInRange (cpsOf fc fs) = true := by
  simp only [samplingValid, Bool.and_eq_true, decide_eq_true_eq] at h
  obtain ⟨⟨⟨⟨hfc, hfs⟩, -⟩, hcps⟩, -⟩ := h
  exact ⟨hfc, hfs, hcps⟩

theorem adjustOk_iff (fc fs : Rat) : adjustOk fc fs = true ↔ 0 < fs ∧ cpsInRange (cpsOf fc fs) = true := by
  simp only [adjustOk, Bool.and_eq_true, decide_eq_true_eq]

/-! ## The invariant over one step -/

/-- The clauses on the sampler's configuration carry over to a state with the same configuration. -/
theorem inv_of_same_sampling {s t : State} (h : Inv s) (hring : ringWf t.ring = true) (hlfsr : LfsrInWidth t)
    (hm : t.method = s.method) (hfc : t.clockFreq = s.clockFreq) (hfs : t.sampleFreq = s.sampleFreq)
    (hcps : t.cps = s.cps) : Inv t := by
  obtain ⟨-, -, hs⟩ := h
  rw [← hm, ← hfc, ← hfs, ← hcps] at hs
  exact ⟨hring, hlfsr, hs⟩

theorem ctrlEffect_inv (v : Fin 3) (old new : Byte) {s : State} (h : Inv s) : Inv (ctrlEffect v old new s) :=
  inv_of_same_sampling h h.1 (ctrlEffect_lfsrInWidth v old new h.2.1) rfl rfl rfl rfl

theorem afterReset_inv {s : State} (h : Inv s) : Inv s.afterReset :=
  inv_of_same_sampling h rfl (created_lfsrInWidth ⟨s.variant, s.tables⟩) rfl rfl rfl rfl

theorem clock_inv (k : Nat) {s : State} (h : Inv s) : Inv (clock k s) :=
  inv_of_same_sampling h (clock_ringWf k h.1) (clock_lfsrInWidth k h.2.1) (clock_method k s) (clock_clockFreq k s)
    (clock_sampleFreq k s) (clock_cps k s)

theorem restore_inv (blob : List Byte) {s : State} (h : Inv s) : Inv (restore blob s) :=
  inv_of_same_sampling h (by rw [restore_ring]; exact h.1) (restore_lfsrInWidth blob s) (restore_method blob s)
    (restore_clockFreq blob s) (restore_sampleFreq blob s) (restore_cps blob s)

theorem commitSampling_inv {fc : Rat} {m : Int} {fs pass scale : Rat} (hv : samplingValid fc m fs pass scale = true)
    {s : State} (h : Inv s) : Inv (commitSampling fc m fs pass scale s) := by
  obtain ⟨hfc, hfs, hc⟩ := samplingValid_frequencies hv
  exact ⟨rfl, h.2.1, methodOf_firOk fc m fs pass scale, hfc, hfs, hc, toNat_of_cpsInRange hc⟩

theorem adjust_inv {fs : Rat} {s : State} (hv : adjustOk s.clockFreq fs = true) (h : Inv s) :
    Inv { s with sampleFreq := fs, cps := (cpsOf s.clockFreq fs).toNat } := by
  obtain ⟨hfs, hc⟩ := (adjustOk_iff _ _).mp hv
  obtain ⟨hring, hlfsr, hfir, hfc, -⟩ := h
  exact ⟨hring, hlfsr, hfir, hfc, hfs, hc, toNat_of_cpsInRange hc⟩

/-- The invariant does not speak of the result. -/
theorem withResult_inv (r : Result) {s : State} (h : Inv s) : Inv (s.withResult r) := h

/-- Nor of the sampler's position, its previous sample and the caller's buffer. -/
theorem inv_with_run (so : S32) (sp : Sample) (buf : List Sample) {s : State} (h : Inv s) :
    Inv { s with so := so, sprev := sp, callerBuf := buf } := h

/-- Every effect of a command keeps the invariant. The registers, `alive`, the latches and the audio input do not stand
in it, so where an effect updates those alone the invariant is the same proposition. -/
theorem effect_inv {i : Instr} {s t : State} (he : Effect i s t) (h : Inv s) : Inv t := by
  cases he with
  | store a d => exact h
  | control v d => exact withResult_inv _ (ctrlEffect_inv v (s.ctrl v) d h)
  | answer r => exact withResult_inv r h
  | created => exact created_inv s.createArgs
  | released => exact h
  | afterReset => exact withResult_inv _ (afterReset_inv h)
  | latched m f e x => exact h
  | committed fc m fs pass scale hi hv => exact withResult_inv _ (commitSampling_inv hv h)
  | adjusted fs hi hv => exact withResult_inv _ (adjust_inv hv h)
  | clocked k so sp buf r => exact withResult_inv r (inv_with_run so sp buf (clock_inv k h))
  | restored blob => exact withResult_inv _ (restore_inv blob h)

/-- A command that does not decode has no next state (spec/60_exceptions.md R303). -/
theorem refuseUndecoded_ne_next (e : DecodeError) (s t : State) : refuseUndecoded e s ≠ .next t := fun h =>
  nomatch (whenAlive_next h).2

/-- All that a step can do, when it answers a next state: nothing, or the command at the head of the stream, on the
state that has taken it. -/
theorem step_next {s t : State} (h : step s = .next t) :
    t = s ∨ ∃ c rest i, s.cmds = c :: rest ∧ decode c = .ok i ∧
      exec i { s with cmds := rest, createArgs := createArgsOf c.operands } = .next t := by
  cases hc : s.cmds with
  | nil =>
    rw [step_of_cmds_nil hc] at h
    exact .inl (Host.Outcome.next.inj h).symm
  | cons c rest =>
    cases hd : decode c with
    | ok i => exact .inr ⟨c, rest, i, rfl, hd, step_of_decode_ok hc hd ▸ h⟩
    | error e =>
      simp only [step, State.fetch_of_cmds_cons hc, hd] at h
      exact absurd h (refuseUndecoded_ne_next e _ t)

/-- Settles O60: a step does nothing or runs a command, and each of the eleven effects of a command keeps the
invariant. -/
theorem stepKeepsInv : Obligations.StepKeepsInv := by
  intro s t h hstep
  rcases step_next hstep with rfl | ⟨c, rest, i, -, -, hexec⟩
  · exact h
  · exact effect_inv (exec_effect hexec).2 h

end Sys2Proof.Machine
end

section
/-! What CLOCK_SAMPLES leaves of the caller's buffer: O27. -/

namespace Sys2Proof.Machine

open Sys2Proof Sys2Proof.Safety

/-- All that CLOCK_SAMPLES can do, when it answers a next state: its operands passed the checks, and it leaves the run
apart from the buffer, the buffer with the run's samples, and the counts (spec/41_clocking.md R145). -/
theorem execClockSamples_next {dt n il : Int} {buf : List Sample} {s t : State}
    (h : exec (.clockSamples dt buf n il) s = .next t) :
    s.alive = true ∧ (CountOk dt ∧ CountOk n) ∧ InterleaveOk il ∧ n * il ≤ buf.length ∧
      t = { (pureRunOf s.method n.toNat dt.toNat s).state with
        callerBuf := writeAll il.toNat 0 (pureRunOf s.method n.toNat dt.toNat s).samples buf
        result := .counts (pureRunOf s.method n.toNat dt.toNat s).samples.length
          (pureRunOf s.method n.toNat dt.toNat s).remaining } := by
  obtain ⟨halive, h⟩ := whenAlive_next h
  obtain ⟨hcounts, h⟩ := require_next h
  obtain ⟨hil, h⟩ := require_next h
  obtain ⟨hroom, h⟩ := require_next h
  rw [clockSamplesRun_run] at h
  simp only [countInRange, interleaveInRange, Bool.and_eq_true, decide_eq_true_eq] at hcounts hil hroom
  exact ⟨halive, hcounts, hil, hroom, (Host.Outcome.next.inj h).symm⟩

/-- Settles O27: the run writes frame k at k × interleave for each k below the returned count, and nothing else. -/
theorem bufferFrame : Obligations.BufferFrame := by
  intro dt n il buf s t w rem hexec hcounts j hj
  obtain ⟨-, -, ⟨hil, -⟩, -, rfl⟩ := execClockSamples_next hexec
  obtain ⟨hw, -⟩ := Result.counts.inj hcounts
  refine writeAll_other fun k _ hk hjk => hj k (by omega) ?_
  calc (j : Int) = ((k * il.toNat : Nat) : Int) := congrArg Nat.cast hjk
    _ = k * il := by rw [Nat.cast_mul, Int.toNat_of_nonneg (by omega)]

end Sys2Proof.Machine
end

section
/-! The command words: which are reserved, what the decoder answers on each, and the way back from an instruction to its
word: O1 to O5. -/

namespace Sys2Proof

open Sys2Proof.Machine Sys2Proof.Safety

/-! ## The rows -/

theorem busInstr_some_bare (i : Instr) : busInstr (some i) .bare = .ok i := rfl

theorem busInstr_ok {row : Option Instr} {ops : Operands} {i : Instr} (h : busInstr row ops = .ok i) :
    row = some i := by
  cases row with
  | none => cases h
  | some j => cases ops <;> cases h; rfl

theorem writeRow_reserved {a : Nat} (d : Byte) (ha : 29 ≤ a) : writeRow a d = none := by
  rw [← Option.not_isSome_iff_eq_none, writeRow_isSome]
  omega

theorem readRow_reserved {a : Nat} (ha : 29 ≤ a) : readRow a = none := by
  rw [← Option.not_isSome_iff_eq_none, readRow_isSome]
  omega

theorem exists_writeRow {a : Nat} (d : Byte) (ha : a < 29) : ∃ i, writeRow a d = some i :=
  Option.isSome_iff_exists.mp ((writeRow_isSome a d).mpr ha)

theorem exists_readRow {a : Nat} (ha : a < 29) : ∃ i, readRow a = some i :=
  Option.isSome_iff_exists.mp ((readRow_isSome a).mpr ha)

theorem hostRow_reserved {o : Nat} (ops : Operands) (ho : 16 ≤ o) : hostRow o ops = .error .reservedEncoding := by
  obtain ⟨k, rfl⟩ : ∃ k, o = k + 16 := ⟨o - 16, by omega⟩
  simp [hostRow]

/-- Beside each opcode of spec/30_encoding.md R74 some record has the shape it fixes. -/
theorem exists_hostRow {o : Nat} (ho : o < 16) : ∃ ops i, hostRow o ops = .ok i := by
  interval_cases o
  exacts [⟨.bare, _, rfl⟩, ⟨.bare, _, rfl⟩, ⟨.bare, _, rfl⟩, ⟨.model 0, _, rfl⟩, ⟨.enable false, _, rfl⟩,
    ⟨.enable false, _, rfl⟩, ⟨.sampling 1 0 1 none none, _, rfl⟩, ⟨.sampleFreq 1, _, rfl⟩, ⟨.bare, _, rfl⟩,
    ⟨.count 0, _, rfl⟩, ⟨.samples 0 [] 0 none, _, rfl⟩, ⟨.sample 0, _, rfl⟩, ⟨.bare, _, rfl⟩, ⟨.bits 16, _, rfl⟩,
    ⟨.bare, _, rfl⟩, ⟨.blob [], _, rfl⟩]

/-! ## The reserved words, and the words of the rows -/

/-- The decoder refuses a reserved word whatever record stands beside it (spec/30_encoding.md R75). -/
theorem decode_reserved {c : Command} (h : ReservedWord c.word) : decode c = .error .reservedEncoding := by
  by_cases h13 : bit13 c.word = 1#1
  · exact decode_bit13 h13
  have hbit := mt BitVec.eq_of_toNat_eq h13
  rw [bit13_toNat, BitVec.toNat_ofNat] at hbit
  have haddr := addrField_toNat c.word
  have hlow := lowByte_toNat c.word
  have hclass := classField_toNat c.word
  obtain h0 | h1 | h2 | h3 :
      classField c.word = 0#2 ∨ classField c.word = 1#2 ∨ classField c.word = 2#2 ∨ classField c.word = 3#2 := by
    generalize classField c.word = f
    revert f
    decide
  · rw [h0, BitVec.toNat_ofNat] at hclass
    rw [decode_busWrite h13 h0, writeRow_reserved _ (by omega)]
    rfl
  · rw [h1, BitVec.toNat_ofNat] at hclass
    rw [decode_busRead h13 h1]
    split
    next hzero =>
      rw [hzero, BitVec.toNat_ofNat] at hlow
      rw [readRow_reserved (by omega)]
      rfl
    next => rfl
  · rw [h2, BitVec.toNat_ofNat] at hclass
    rw [decode_host h13 h2]
    split
    next hzero =>
      rw [hzero, BitVec.toNat_ofNat] at haddr
      exact hostRow_reserved _ (by omega)
    next => rfl
  · exact decode_class3 h13 h3

/-- A word that is not reserved is the word of one row: a bus write or read of an address of the map, or a host opcode
of the table (spec/30_encoding.md R71 to R74). -/
theorem word_of_not_reserved {w : Word} (h : ¬ReservedWord w) :
    (∃ a d, a.toNat < 29 ∧ w = busWriteWord a d) ∨ (∃ a, a.toNat < 29 ∧ w = busReadWord a) ∨
      ∃ o, o.toNat < 16 ∧ w = hostWord o := by
  have hlt := w.isLt
  have haddr := addrField_toNat w
  have hlow := lowByte_toNat w
  obtain h0 | h1 | h2 : w.toNat / 2 ^ 14 = 0 ∨ w.toNat / 2 ^ 14 = 1 ∨ w.toNat / 2 ^ 14 = 2 := by omega
  · refine .inl ⟨addrField w, lowByte w, by omega, BitVec.eq_of_toNat_eq ?_⟩
    rw [busWriteWord_toNat]
    omega
  · refine .inr (.inl ⟨addrField w, by omega, BitVec.eq_of_toNat_eq ?_⟩)
    rw [busReadWord_toNat]
    omega
  · refine .inr (.inr ⟨lowByte w, by omega, BitVec.eq_of_toNat_eq ?_⟩)
    rw [hostWord_toNat]
    omega

/-- Only the word of a row decodes. -/
theorem not_reserved_of_decode {c : Command} {i : Instr} (h : decode c = .ok i) : ¬ReservedWord c.word := fun hr =>
  nomatch (decode_reserved hr).symm.trans h

/-- Every word of a row decodes, with some record beside it. -/
theorem exists_decode_of_not_reserved {w : Word} (h : ¬ReservedWord w) :
    ∃ ops i, decode { word := w, operands := ops } = .ok i := by
  obtain ⟨a, d, ha, rfl⟩ | ⟨a, ha, rfl⟩ | ⟨o, ho, rfl⟩ := word_of_not_reserved h
  · obtain ⟨i, hi⟩ := exists_writeRow d ha
    exact ⟨.bare, i, by rw [decode_busWriteWord, hi, busInstr_some_bare]⟩
  · obtain ⟨i, hi⟩ := exists_readRow ha
    exact ⟨.bare, i, by rw [decode_busReadWord, hi, busInstr_some_bare]⟩
  · obtain ⟨ops, i, hi⟩ := exists_hostRow ho
    exact ⟨ops, i, by rw [decode_hostWord, hi]⟩

/-- The words that some record makes an instruction are those not reserved (spec/30_encoding.md R75, R87). -/
theorem exists_decode_iff (w : Word) :
    (∃ ops i, decode { word := w, operands := ops } = .ok i) ↔ ¬ReservedWord w :=
  ⟨fun ⟨_, _, h⟩ => not_reserved_of_decode h, exists_decode_of_not_reserved⟩

/-! ## The step of a command that does not decode -/

theorem step_of_decode_error {s : State} {c : Command} {rest : List Command} {e : DecodeError}
    (h : s.cmds = c :: rest) (hdec : decode c = .error e) :
    step s = refuseUndecoded e { s with cmds := rest, createArgs := createArgsOf c.operands } := by
  simp only [step, State.fetch_of_cmds_cons h, hdec]

theorem refuseUndecoded_alive (e : DecodeError) {s : State} (h : s.alive = true) :
    refuseUndecoded e s = .refused (decodeRefusal e) :=
  whenAlive_alive h _

/-! ## The obligations -/

/-- Settles O1: within its class each instruction has one row, and the decoder looks that row up at the address or the
opcode which the encoder wrote. -/
theorem decodeOfEncode : Obligations.DecodeOfEncode := by
  intro i
  cases i with
  | wrFreqLo1 d | wrFreqHi1 d | wrPwLo1 d | wrPwHi1 d | wrCtrl1 d | wrAd1 d | wrSr1 d
  | wrFreqLo2 d | wrFreqHi2 d | wrPwLo2 d | wrPwHi2 d | wrCtrl2 d | wrAd2 d | wrSr2 d
  | wrFreqLo3 d | wrFreqHi3 d | wrPwLo3 d | wrPwHi3 d | wrCtrl3 d | wrAd3 d | wrSr3 d
  | wrFcLo d | wrFcHi d | wrResFilt d | wrModeVol d | wrPotX d | wrPotY d | wrOsc3 d | wrEnv3 d =>
    exact decode_busWriteWord _ d .bare
  | rdFreqLo1 | rdFreqHi1 | rdPwLo1 | rdPwHi1 | rdCtrl1 | rdAd1 | rdSr1
  | rdFreqLo2 | rdFreqHi2 | rdPwLo2 | rdPwHi2 | rdCtrl2 | rdAd2 | rdSr2
  | rdFreqLo3 | rdFreqHi3 | rdPwLo3 | rdPwHi3 | rdCtrl3 | rdAd3 | rdSr3
  | rdFcLo | rdFcHi | rdResFilt | rdModeVol | rdPotX | rdPotY | rdOsc3 | rdEnv3 =>
    exact decode_busReadWord _ .bare
  | create | release | reset | setChipModel | enableFilter | enableExtFilter | setSamplingParameters
  | adjustSamplingFrequency | clock1 | clockN | clockSamples | input | output | outputBits | readState | writeState =>
    exact decode_hostWord _ _

/-- Settles O2: a command that decodes carries a row's word, and the encoder writes that word for the row's
instruction. -/
theorem encodeOfDecode : Obligations.EncodeOfDecode := by
  rintro ⟨w, ops⟩ i h
  obtain ⟨a, d, -, rfl⟩ | ⟨a, -, rfl⟩ | ⟨o, -, rfl⟩ := word_of_not_reserved (not_reserved_of_decode h)
  · rw [decode_busWriteWord] at h
    rw [encode_writeRow (busInstr_ok h), BitVec.ofNat_toNat, BitVec.setWidth_eq]
  · rw [decode_busReadWord] at h
    rw [encode_readRow (busInstr_ok h), BitVec.ofNat_toNat, BitVec.setWidth_eq]
  · rw [decode_hostWord] at h
    rw [(encode_hostRow h).2, BitVec.ofNat_toNat, BitVec.setWidth_eq]

/-- Settles O3: the decoder refuses the reserved words, and the others are the words of the rows. -/
theorem reservedWordsRefused : Obligations.ReservedWordsRefused := by
  intro w
  constructor
  · intro hw ops rest s halive hcmds
    rw [step_of_decode_error hcmds (decode_reserved hw)]
    exact refuseUndecoded_alive .reservedEncoding halive
  · intro hw
    obtain ⟨ops, i, hi⟩ := exists_decode_of_not_reserved hw
    exact ⟨ops, i, hi, encodeOfDecode _ i hi⟩

/-- Settles O4: the words that decode are those not reserved, and the ranges of R88 are their complement. -/
theorem commandSpace : Obligations.CommandSpace := by
  intro w
  have hlt := w.isLt
  rw [exists_decode_iff]
  omega

/-- Settles O5: each word is the one the layouts of R70 give for its row, which fixes the instruction; a host row fills
in the defaults of R74. -/
theorem wordsFromTables : Obligations.WordsFromTables := by
  refine ⟨decodeOfEncode (.wrCtrl1 0x21#8), decodeOfEncode (.wrModeVol 0x1F#8), decodeOfEncode .rdOsc3,
    decodeOfEncode .create, fun args => decode_hostWord 0x00#8 (.config args), decodeOfEncode .clock1,
    decodeOfEncode (.input 800), fun fc m fs => ?_, fun dt buf n => decode_hostWord 0x0A#8 (.samples dt buf n none)⟩
  rw [← defaultFilterScale_eq]
  exact decode_hostWord 0x06#8 (.sampling fc m fs none none)

end Sys2Proof
end

section
/-! What is stored in the read side reaches nothing but a snapshot: O14. -/

namespace Sys2Proof.Safety

open Sys2Proof Sys2Proof.Machine

/-! ## The relation over the updates of the commands -/

theorem SameButReadSide.refl (s : State) : SameButReadSide s s := ⟨rfl, fun _ _ => rfl⟩

/-- Where the relation holds, an update that sets the registers anew without reading them gives the same state. -/
theorem SameButReadSide.overwrite_eq {s s' : State} (h : SameButReadSide s s') (f : State → State)
    (hf : ∀ u r, f { u with regs := r } = f u) : f s' = f s := by
  rw [h.rest]
  exact hf s s'.regs

/-- Such an update ends the difference. -/
theorem SameButReadSide.overwrite {s s' : State} (h : SameButReadSide s s') (f : State → State)
    (hf : ∀ u r, f { u with regs := r } = f u) : SameButReadSide (f s) (f s') := by
  rw [h.overwrite_eq f hf]
  exact .refl _

theorem SameButReadSide.withResult {s s' : State} (h : SameButReadSide s s') (r : Result) :
    SameButReadSide (s.withResult r) (s'.withResult r) :=
  h.update (State.withResult r) fun _ _ => rfl

theorem SameButReadSide.withReg {s s' : State} (h : SameButReadSide s s') (a : Fin 29) (d : Byte) :
    SameButReadSide (s.withReg a d) (s'.withReg a d) := by
  refine ⟨?_, fun b hb => ?_⟩
  · conv => lhs; rw [h.rest]
    rfl
  · rw [State.withReg_reg, State.withReg_reg, h.low b hb]

/-- The effect of a CONTROL write reads the variant and one voice. -/
theorem SameButReadSide.ctrlEffect {s s' : State} (h : SameButReadSide s s') (v : Fin 3) (old new : Byte) :
    SameButReadSide (ctrlEffect v old new s) (ctrlEffect v old new s') :=
  h.update (Machine.ctrlEffect v old new) fun _ _ => rfl

/-! ## The relation over outcomes -/

/-- Where the first outcome is a next state, so is the second, and the two differ at most in the read side's bytes. -/
def SameNext (o o' : Outcome) : Prop := ∀ t, o = .next t → ∃ t', o' = .next t' ∧ SameButReadSide t t'

theorem sameNext_refused (r : Refusal) (o : Outcome) : SameNext (.refused r) o := fun _ h => nomatch h

theorem sameNext_require {o o' : Outcome} (ok : Bool) (r : Refusal) (ho : SameNext o o') :
    SameNext (require ok r o) (require ok r o') := by
  cases ok with
  | true => exact ho
  | false => exact sameNext_refused r _

theorem SameButReadSide.done {s s' : State} (h : SameButReadSide s s') (r : Result) :
    SameNext (done r s) (done r s') := by
  rintro _ ⟨⟩
  exact ⟨_, rfl, h.withResult r⟩

section Commands

variable {s s' : State} (h : SameButReadSide s s')

include h

theorem SameButReadSide.alive_eq : s'.alive = s.alive := by rw [h.rest]

theorem SameButReadSide.clockFreq_eq : s'.clockFreq = s.clockFreq := by rw [h.rest]

theorem SameButReadSide.method_eq : s'.method = s.method := by rw [h.rest]

theorem SameButReadSide.extOut_eq : s'.extOut = s.extOut := by rw [h.rest]

theorem SameButReadSide.whenAlive {o o' : Outcome} (ho : SameNext o o') :
    SameNext (whenAlive s o) (whenAlive s' o') := by
  rcases Bool.eq_false_or_eq_true s.alive with hs | hs
  · rw [whenAlive_alive hs, whenAlive_alive (h.alive_eq.trans hs)]
    exact ho
  · rw [whenAlive_dead hs]
    exact sameNext_refused _ _

/-- A command that updates the state, under the `alive` check. -/
theorem SameButReadSide.whenAlive_done (r : Result) {u u' : State} (hu : SameButReadSide u u') :
    SameNext (Machine.whenAlive s (Machine.done r u)) (Machine.whenAlive s' (Machine.done r u')) :=
  h.whenAlive (hu.done r)

/-- A WRITE, given the relation after its effect. -/
theorem SameButReadSide.busWrite (a : Nat) {effect : Byte → Byte → State → State} {d : Byte}
    (heffect : ∀ ha : a < 29, SameButReadSide (effect (s.reg ⟨a, ha⟩) d (s.withReg ⟨a, ha⟩ d))
      (effect (s'.reg ⟨a, ha⟩) d (s'.withReg ⟨a, ha⟩ d))) :
    SameNext (busWrite a effect d s) (busWrite a effect d s') := by
  refine h.whenAlive ?_
  by_cases ha : a < 29
  · rw [dif_pos ha, dif_pos ha]
    exact (heffect ha).done .none
  · rw [dif_neg ha]
    exact sameNext_refused _ _

theorem SameButReadSide.busWrite_noEffect (a : Nat) (d : Byte) :
    SameNext (Machine.busWrite a noEffect d s) (Machine.busWrite a noEffect d s') :=
  h.busWrite a fun ha => h.withReg ⟨a, ha⟩ d

/-- The old byte that the effect of a CONTROL write is given stands below the read side. -/
theorem SameButReadSide.busWrite_ctrlEffect {a : Nat} (v : Fin 3) (d : Byte) (ha : a < 25) :
    SameNext (Machine.busWrite a (Machine.ctrlEffect v) d s) (Machine.busWrite a (Machine.ctrlEffect v) d s') := by
  refine h.busWrite a fun ha' => ?_
  rw [h.reg_eq (a := ⟨a, ha'⟩) ha]
  exact (h.withReg ⟨a, ha'⟩ d).ctrlEffect v _ d

/-- A READ of the same value. -/
theorem SameButReadSide.busRead (a : Nat) {value : Fin 29 → State → Byte}
    (hvalue : ∀ ha : a < 29, value ⟨a, ha⟩ s' = value ⟨a, ha⟩ s) :
    SameNext (busRead a value s) (busRead a value s') := by
  refine h.whenAlive ?_
  by_cases ha : a < 29
  · rw [dif_pos ha, dif_pos ha, hvalue ha]
    exact h.done _
  · rw [dif_neg ha]
    exact sameNext_refused _ _

theorem SameButReadSide.busRead_stored {a : Nat} (ha : a < 25) :
    SameNext (Machine.busRead a storedValue s) (Machine.busRead a storedValue s') :=
  h.busRead a fun _ => h.low _ ha

theorem SameButReadSide.outScale_eq (bits : Nat) : outScale bits s' = outScale bits s := by
  rw [outScale, outScale, h.extOut_eq]

theorem SameButReadSide.clockSamplesRun (dt : Nat) (buf : List Sample) (n il : Nat) :
    SameNext (clockSamplesRun dt buf n il s) (clockSamplesRun dt buf n il s') := by
  obtain ⟨hstate, hsamples, hremaining⟩ := h.run s.method n dt
  rw [clockSamplesRun_run, clockSamplesRun_run, h.method_eq, hsamples, hremaining]
  generalize pureRunOf s.method n dt s = p at hstate ⊢
  rintro _ ⟨⟩
  exact ⟨_, rfl, hstate.update (fun u => { u with
    callerBuf := writeAll il 0 p.samples buf
    result := .counts p.samples.length p.remaining }) fun _ _ => rfl⟩

theorem SameButReadSide.execSetChipModel (m : Int) : SameNext (execSetChipModel m s) (execSetChipModel m s') := by
  refine h.whenAlive ?_
  cases modelOfOperand m with
  | none => exact sameNext_refused _ _
  | some c => exact (h.update (fun u => { u with model := c }) fun _ _ => rfl).done .none

theorem SameButReadSide.execSetSamplingParameters (fc : Rat) (m : Int) (fs pass scale : Rat) :
    SameNext (execSetSamplingParameters fc m fs pass scale s) (execSetSamplingParameters fc m fs pass scale s') := by
  refine h.whenAlive ?_
  cases samplingValid fc m fs pass scale with
  | true => exact (h.update (commitSampling fc m fs pass scale) fun _ _ => rfl).done (.flag true)
  | false => exact h.done (.flag false)

theorem SameButReadSide.execAdjustSamplingFrequency (fs : Rat) :
    SameNext (execAdjustSamplingFrequency fs s) (execAdjustSamplingFrequency fs s') := by
  have hok : adjustOk s'.clockFreq fs = adjustOk s.clockFreq fs := by rw [h.clockFreq_eq]
  refine h.whenAlive ?_
  rw [hok]
  exact sameNext_require _ _ ((h.update
    (fun u => { u with sampleFreq := fs, cps := (cpsOf u.clockFreq fs).toNat }) fun _ _ => rfl).done .none)

/-- Every command but READ_STATE keeps the relation: a write stores on both sides alike, a read looks at no byte of the
read side, a run of cycles keeps the relation, and CREATE, RESET and WRITE_STATE set the registers anew. -/
theorem SameButReadSide.exec {i : Instr} (hi : i ≠ .readState) : SameNext (exec i s) (exec i s') := by
  cases i with
  | wrFreqLo1 d | wrFreqHi1 d | wrPwLo1 d | wrPwHi1 d | wrAd1 d | wrSr1 d
  | wrFreqLo2 d | wrFreqHi2 d | wrPwLo2 d | wrPwHi2 d | wrAd2 d | wrSr2 d
  | wrFreqLo3 d | wrFreqHi3 d | wrPwLo3 d | wrPwHi3 d | wrAd3 d | wrSr3 d
  | wrFcLo d | wrFcHi d | wrResFilt d | wrModeVol d | wrPotX d | wrPotY d | wrOsc3 d | wrEnv3 d =>
    exact h.busWrite_noEffect _ d
  | wrCtrl1 d | wrCtrl2 d | wrCtrl3 d => exact h.busWrite_ctrlEffect _ d (by decide)
  | rdFreqLo1 | rdFreqHi1 | rdPwLo1 | rdPwHi1 | rdCtrl1 | rdAd1 | rdSr1
  | rdFreqLo2 | rdFreqHi2 | rdPwLo2 | rdPwHi2 | rdCtrl2 | rdAd2 | rdSr2
  | rdFreqLo3 | rdFreqHi3 | rdPwLo3 | rdPwHi3 | rdCtrl3 | rdAd3 | rdSr3
  | rdFcLo | rdFcHi | rdResFilt | rdModeVol => exact h.busRead_stored (by decide)
  | rdPotX => exact h.busRead 25 fun _ => rfl
  | rdPotY => exact h.busRead 26 fun _ => rfl
  | rdOsc3 => exact h.busRead 27 fun _ => congrArg (BitVec.extractLsb' 4 8) (h.wave_eq 2)
  | rdEnv3 => exact h.busRead 28 fun _ => congrArg Voice.level (h.voice_eq 2)
  | create =>
    exact (h.overwrite (fun u => { State.created u.createArgs with cmds := u.cmds, callerBuf := u.callerBuf })
      fun _ _ => rfl).done .none
  | release => exact h.whenAlive_done .none (h.update (fun u => { u with alive := false }) fun _ _ => rfl)
  | reset => exact h.whenAlive_done .none (h.overwrite State.afterReset fun _ _ => rfl)
  | setChipModel m => exact h.execSetChipModel m
  | enableFilter b => exact h.whenAlive_done .none (h.update (fun u => { u with filterEn := b }) fun _ _ => rfl)
  | enableExtFilter b => exact h.whenAlive_done .none (h.update (fun u => { u with extEn := b }) fun _ _ => rfl)
  | setSamplingParameters fc m fs pass scale => exact h.execSetSamplingParameters fc m fs pass scale
  | adjustSamplingFrequency fs => exact h.execAdjustSamplingFrequency fs
  | clock1 => exact h.whenAlive_done .none (h.clock 1)
  | clockN n => exact h.whenAlive (sameNext_require _ _ ((h.clock n.toNat).done .none))
  | clockSamples dt buf n il =>
    exact h.whenAlive (sameNext_require _ _ (sameNext_require _ _ (sameNext_require _ _ (h.clockSamplesRun _ _ _ _))))
  | input x =>
    exact h.whenAlive (sameNext_require _ _ ((h.update (fun u => { u with extIn := s16 x }) fun _ _ => rfl).done .none))
  | output =>
    refine h.whenAlive ?_
    rw [h.outScale_eq]
    exact h.done _
  | outputBits b =>
    refine h.whenAlive (sameNext_require _ _ ?_)
    rw [h.outScale_eq]
    exact h.done _
  | readState => exact absurd rfl hi
  | writeState blob => exact h.whenAlive (sameNext_require _ _ ((h.overwrite (restore blob) fun _ _ => rfl).done .none))

end Commands

/-- Settles O14: the relation is one that every command but READ_STATE keeps. -/
theorem readSideDoesNotInfluence : Obligations.ReadSideDoesNotInfluence := fun _ _ _ t h hi ht => h.exec hi t ht

end Sys2Proof.Safety
end

section
/-! What each command may change: O58. Each field is followed through the eleven effects of a command. -/

namespace Sys2Proof.Machine

open Sys2Proof Sys2Proof.Safety

/-- The command sets the registers, the voices and the filters anew: CREATE, RESET or WRITE_STATE. -/
abbrev SetsAnew (i : Instr) : Prop := i = .create ∨ i = .reset ∨ ∃ b, i = .writeState b

/-- The command is SET_SAMPLING_PARAMETERS. -/
abbrev SetsSampling (i : Instr) : Prop := ∃ fc m fs pass scale, i = .setSamplingParameters fc m fs pass scale

/-- Of two values that are as before, neither has changed. -/
theorem or_ne_elim {α β : Type} {a b : α} {c d : β} {p : Prop} (h : a ≠ b ∨ c ≠ d) (hab : a = b) (hcd : c = d) : p :=
  h.elim (absurd hab) (absurd hcd)

section Changes

variable {i : Instr} {s t : State} (he : Effect i s t)

include he

theorem Effect.variant_change (h : t.variant ≠ s.variant ∨ t.tables ≠ s.tables) : i = .create := by
  cases he with
  | created hi => exact hi
  | clocked | restored => simp at h
  | store | control | answer | released | afterReset | latched | committed | adjusted =>
    exact or_ne_elim h rfl rfl

theorem Effect.cmds_eq : t.cmds = s.cmds := by
  cases he with
  | clocked | restored => simp
  | store | control | answer | created | released | afterReset | latched | committed | adjusted => rfl

theorem Effect.createArgs_eq : t.createArgs = s.createArgs := by
  cases he with
  | clocked | restored => simp
  | store | control | answer | created | released | afterReset | latched | committed | adjusted => rfl

theorem Effect.regs_change (h : t.regs ≠ s.regs) : (∃ a d, writeRow a d = some i) ∨ SetsAnew i := by
  cases he with
  | store a d hi => exact .inl ⟨a, d, hi⟩
  | control v d hi => exact .inl ⟨voiceAddr v 4, d, by rw [hi]; fin_cases v <;> rfl⟩
  | created hi => exact .inr (.inl hi)
  | afterReset hi => exact .inr (.inr (.inl hi))
  | restored b hi => exact .inr (.inr (.inr ⟨b, hi⟩))
  | clocked => simp at h
  | answer | released | latched | committed | adjusted => exact absurd rfl h

/-- The voices change by cycles, by a CONTROL write of that voice, or with everything else. -/
theorem Effect.voice_change (v : Fin 3) (h : t.voice v ≠ s.voice v) :
    clocks i = true ∨ SetsAnew i ∨ ∃ d, i = wrCtrl v d ∧
      t.voice v = (ctrlEffect v (s.ctrl v) d (s.withReg (voiceAddr v 4) d)).voice v := by
  cases he with
  | clocked k so sp buf r hi => exact .inl hi
  | created hi => exact .inr (.inl (.inl hi))
  | afterReset hi => exact .inr (.inl (.inr (.inl hi)))
  | restored b hi => exact .inr (.inl (.inr (.inr ⟨b, hi⟩)))
  | control u d hi =>
    by_cases huv : v = u
    · subst huv
      exact .inr (.inr ⟨d, hi, rfl⟩)
    · refine absurd ?_ h
      rw [State.withResult_voice, ctrlEffect_voice, if_neg huv, State.withReg_voice]
  | store | answer | released | latched | committed | adjusted => exact absurd rfl h

/-- The accumulator and the noise register: of the CONTROL writes only one with TEST reaches them. -/
theorem Effect.oscillator_change (v : Fin 3)
    (h : (t.voice v).acc ≠ (s.voice v).acc ∨ (t.voice v).lfsr ≠ (s.voice v).lfsr) :
    clocks i = true ∨ (∃ d, i = wrCtrl v d ∧ d.getLsbD 3 = true) ∨ SetsAnew i := by
  obtain hc | ha | ⟨d, hi, ht⟩ := he.voice_change v fun hv => or_ne_elim h (by rw [hv]) (by rw [hv])
  · exact .inl hc
  · exact .inr (.inr ha)
  · obtain ⟨htest, -⟩ := ctrlEffect_changes v (s.ctrl v) d (s.withReg (voiceAddr v 4) d) v
    rw [ht] at h
    exact .inr (.inl ⟨d, hi, (htest h).2⟩)

theorem Effect.level_change (v : Fin 3)
    (h : (t.voice v).level ≠ (s.voice v).level ∨ (t.voice v).exp ≠ (s.voice v).exp) :
    clocks i = true ∨ SetsAnew i := by
  obtain hc | ha | ⟨d, hi, ht⟩ := he.voice_change v fun hv => or_ne_elim h (by rw [hv]) (by rw [hv])
  · exact .inl hc
  · exact .inr ha
  · obtain ⟨-, hlevel, hexp, -⟩ := ctrlEffect_changes v (s.ctrl v) d (s.withReg (voiceAddr v 4) d) v
    rw [ht] at h
    exact or_ne_elim h hlevel hexp

/-- The phase: of the CONTROL writes only one with a gate edge reaches it. -/
theorem Effect.phase_change (v : Fin 3) (h : (t.voice v).phase ≠ (s.voice v).phase) :
    clocks i = true ∨ (∃ d, i = wrCtrl v d ∧ d.getLsbD 0 ≠ s.gate v) ∨ SetsAnew i := by
  obtain hc | ha | ⟨d, hi, ht⟩ := he.voice_change v fun hv => h (by rw [hv])
  · exact .inl hc
  · exact .inr (.inr ha)
  · obtain ⟨-, -, -, hedge, -⟩ := ctrlEffect_changes v (s.ctrl v) d (s.withReg (voiceAddr v 4) d) v
    rw [ht] at h
    exact .inr (.inl ⟨d, hi, (hedge h).2⟩)

/-- The rate counter: of the CONTROL writes only one with a rising edge reaches it, under `GATE_RESETS_COUNTER`. -/
theorem Effect.rc_change (v : Fin 3) (h : (t.voice v).rc ≠ (s.voice v).rc) :
    clocks i = true ∨
      (∃ d, i = wrCtrl v d ∧ s.gate v = false ∧ d.getLsbD 0 = true ∧ s.variant.gateResetsCounter = true) ∨
      SetsAnew i := by
  obtain hc | ha | ⟨d, hi, ht⟩ := he.voice_change v fun hv => h (by rw [hv])
  · exact .inl hc
  · exact .inr (.inr ha)
  · obtain ⟨-, -, -, -, hrising⟩ := ctrlEffect_changes v (s.ctrl v) d (s.withReg (voiceAddr v 4) d) v
    rw [ht] at h
    exact .inr (.inl ⟨d, hi, (hrising h).2⟩)

theorem Effect.extIn_change (h : t.extIn ≠ s.extIn) : (∃ x, i = .input x) ∨ SetsAnew i := by
  cases he with
  | latched m f e x hi hm hf he hx => exact .inl (hx.resolve_right h)
  | created hi => exact .inr (.inl hi)
  | afterReset hi => exact .inr (.inr (.inl hi))
  | restored b hi => exact .inr (.inr (.inr ⟨b, hi⟩))
  | clocked => simp at h
  | store | control | answer | released | committed | adjusted => exact absurd rfl h

theorem Effect.filter_change
    (h : t.bp ≠ s.bp ∨ t.lp ≠ s.lp ∨ t.extHp ≠ s.extHp ∨ t.extLp ≠ s.extLp ∨ t.extOut ≠ s.extOut) :
    clocks i = true ∨ SetsAnew i := by
  cases he with
  | clocked k so sp buf r hi => exact .inl hi
  | created hi => exact .inr (.inl hi)
  | afterReset hi => exact .inr (.inr (.inl hi))
  | restored b hi => exact .inr (.inr (.inr ⟨b, hi⟩))
  | store | control | answer | released | latched | committed | adjusted =>
    obtain h | h | h | h | h := h <;> exact absurd rfl h

theorem Effect.position_change (h : t.so ≠ s.so ∨ t.sprev ≠ s.sprev) :
    (∃ dt buf n il, i = .clockSamples dt buf n il) ∨ SetsSampling i ∨ SetsAnew i := by
  cases he with
  | clocked k so sp buf r hi hs => exact .inl (hs.resolve_right fun ⟨hso, hsp, _⟩ => or_ne_elim h hso hsp)
  | committed fc m fs pass scale hi => exact .inr (.inl ⟨fc, m, fs, pass, scale, hi⟩)
  | created hi => exact .inr (.inr (.inl hi))
  | afterReset hi => exact .inr (.inr (.inr (.inl hi)))
  | restored b hi => exact .inr (.inr (.inr (.inr ⟨b, hi⟩)))
  | store | control | answer | released | latched | adjusted => exact or_ne_elim h rfl rfl

theorem Effect.ring_change (h : t.ring ≠ s.ring ∨ t.ri ≠ s.ri) :
    clocks i = true ∨ SetsSampling i ∨ i = .create ∨ i = .reset := by
  cases he with
  | clocked k so sp buf r hi => exact .inl hi
  | committed fc m fs pass scale hi => exact .inr (.inl ⟨fc, m, fs, pass, scale, hi⟩)
  | created hi => exact .inr (.inr (.inl hi))
  | afterReset hi => exact .inr (.inr (.inr hi))
  | restored => simp at h
  | store | control | answer | released | latched | adjusted => exact or_ne_elim h rfl rfl

theorem Effect.model_change (h : t.model ≠ s.model) : i = .create ∨ ∃ m, i = .setChipModel m := by
  cases he with
  | created hi => exact .inl hi
  | latched m f e x hi hm => exact .inr (hm.resolve_right h)
  | clocked | restored => simp at h
  | store | control | answer | released | afterReset | committed | adjusted => exact absurd rfl h

theorem Effect.filterEn_change (h : t.filterEn ≠ s.filterEn) : i = .create ∨ ∃ b, i = .enableFilter b := by
  cases he with
  | created hi => exact .inl hi
  | latched m f e x hi hm hf => exact .inr (hf.resolve_right h)
  | clocked | restored => simp at h
  | store | control | answer | released | afterReset | committed | adjusted => exact absurd rfl h

theorem Effect.extEn_change (h : t.extEn ≠ s.extEn) : i = .create ∨ ∃ b, i = .enableExtFilter b := by
  cases he with
  | created hi => exact .inl hi
  | latched m f e x hi hm hf he => exact .inr (he.resolve_right h)
  | clocked | restored => simp at h
  | store | control | answer | released | afterReset | committed | adjusted => exact absurd rfl h

theorem Effect.configuration_change
    (h : t.method ≠ s.method ∨ t.clockFreq ≠ s.clockFreq ∨ t.passFreq ≠ s.passFreq ∨ t.filterScale ≠ s.filterScale) :
    i = .create ∨ SetsSampling i := by
  cases he with
  | created hi => exact .inl hi
  | committed fc m fs pass scale hi => exact .inr ⟨fc, m, fs, pass, scale, hi⟩
  | clocked | restored => simp at h
  | store | control | answer | released | afterReset | latched | adjusted =>
    obtain h | h | h | h := h <;> exact absurd rfl h

theorem Effect.ratio_change (h : t.sampleFreq ≠ s.sampleFreq ∨ t.cps ≠ s.cps) :
    i = .create ∨ (∃ fs, i = .adjustSamplingFrequency fs) ∨ SetsSampling i := by
  cases he with
  | created hi => exact .inl hi
  | adjusted fs hi => exact .inr (.inl ⟨fs, hi⟩)
  | committed fc m fs pass scale hi => exact .inr (.inr ⟨fc, m, fs, pass, scale, hi⟩)
  | clocked | restored => simp at h
  | store | control | answer | released | afterReset | latched => exact or_ne_elim h rfl rfl

theorem Effect.alive_change (h : t.alive ≠ s.alive) : i = .create ∨ i = .release := by
  cases he with
  | created hi => exact .inl hi
  | released hi => exact .inr hi
  | clocked | restored => simp at h
  | store | control | answer | afterReset | latched | committed | adjusted => exact absurd rfl h

theorem Effect.callerBuf_change (h : t.callerBuf ≠ s.callerBuf) : ∃ dt buf n il, i = .clockSamples dt buf n il := by
  cases he with
  | clocked k so sp buf r hi hs => exact hs.resolve_right fun ⟨_, _, hbuf⟩ => h hbuf
  | restored => simp at h
  | store | control | answer | created | released | afterReset | latched | committed | adjusted =>
    exact absurd rfl h

end Changes

/-- Settles O58: a command that completes has one of the eleven effects, and each field is followed through them. -/
theorem onlyTheseCommandsChange : Obligations.OnlyTheseCommandsChange := by
  intro i s t h
  obtain ⟨-, he⟩ := exec_effect h
  exact ⟨he.variant_change, he.cmds_eq, he.createArgs_eq, he.regs_change,
    fun v => ⟨he.oscillator_change v, he.level_change v, he.phase_change v, he.rc_change v⟩,
    he.extIn_change, he.filter_change, he.position_change, he.ring_change, he.model_change, he.filterEn_change,
    he.extEn_change, he.configuration_change, he.ratio_change, he.alive_change, he.callerBuf_change⟩

end Sys2Proof.Machine
end

section
/-! The register writes and reads by their row: the command word, the store and its frame, the value that is read. O8,
O9, O11, O12, O13, O15, O16 and O17. -/

namespace Sys2Proof.Machine

open Sys2Proof Sys2Proof.Safety

/-! ## Addresses -/

theorem voiceAddr_val (v : Fin 3) (k : Fin 7) : (voiceAddr v k).val = 7 * v.val + k.val := rfl

theorem voiceAddr_inj {v u : Fin 3} {k l : Fin 7} : voiceAddr v k = voiceAddr u l ↔ v = u ∧ k = l := by
  simp only [voiceAddr, Fin.ext_iff]
  omega

theorem ne_voiceAddr_of_le {a : Fin 29} (ha : 21 ≤ a.val) (v : Fin 3) (k : Fin 7) : a ≠ voiceAddr v k := by
  simp only [voiceAddr, ne_eq, Fin.ext_iff]
  omega

/-! ## A store -/

theorem storedOnly_reg {a : Fin 29} {d : Byte} {s t : State} (h : StoredOnly a d s t) : t.reg a = d := h.2.1

theorem storedOnly_reg_of_ne {a b : Fin 29} {d : Byte} {s t : State} (h : StoredOnly a d s t) (hb : b ≠ a) :
    t.reg b = s.reg b :=
  h.2.2 b hb

/-- A store leaves the other registers of the voice. -/
theorem storedOnly_voice_reg_of_ne {v : Fin 3} {k l : Fin 7} {d : Byte} {s t : State}
    (h : StoredOnly (voiceAddr v k) d s t) (hl : l ≠ k) : t.reg (voiceAddr v l) = s.reg (voiceAddr v l) :=
  storedOnly_reg_of_ne h fun e => hl (voiceAddr_inj.mp e).2

/-! ## The write rows -/

/-- The word of a register write: the address in bits 12:8, the byte below it (spec/30_encoding.md R70). -/
theorem encode_writeRow_toNat {a : Fin 29} {d : Byte} {i : Instr} (hi : writeRow a.val d = some i) :
    (encode i).word.toNat = 256 * a.val + d.toNat := by
  rw [encode_writeRow hi, busWriteWord_toNat, BitVec.toNat_ofNat, Nat.mod_eq_of_lt (by omega)]

/-- The effect of a register write by its address: empty, but for the CONTROL registers (spec/40_orchestrator.md R103 to
R115). `exec_writeRow` ties it to the model. -/
def writeEffect (a : Nat) : Byte → Byte → State → State :=
  match a with
  | 4 => ctrlEffect 0
  | 11 => ctrlEffect 1
  | 18 => ctrlEffect 2
  | _ => noEffect

theorem exec_writeRow {a : Fin 29} {d : Byte} {i : Instr} (hi : writeRow a.val d = some i) (s : State) :
    exec i s = busWrite a.val (writeEffect a.val) d s := by
  fin_cases a <;> (cases hi; rfl)

theorem writeEffect_eq_noEffect {a : Fin 29} (ha : ∀ v, a ≠ voiceAddr v 4) : writeEffect a.val = noEffect := by
  unfold writeEffect
  split
  next h => exact absurd (Fin.ext h) (ha 0)
  next h => exact absurd (Fin.ext h) (ha 1)
  next h => exact absurd (Fin.ext h) (ha 2)
  next => rfl

/-- No effect of a write reaches the registers. -/
theorem writeEffect_reg (a : Nat) (old new : Byte) (s : State) (b : Fin 29) :
    (writeEffect a old new s).reg b = s.reg b := by
  unfold writeEffect
  split <;> rfl

/-- Nor does it reach `alive`. -/
theorem writeEffect_alive (a : Nat) (old new : Byte) (s : State) : (writeEffect a old new s).alive = s.alive := by
  unfold writeEffect
  split <;> rfl

/-- The write of an address that is no CONTROL register: its word, the store and the frame. -/
theorem store_of_writeRow {a : Fin 29} {d : Byte} {i : Instr} (hi : writeRow a.val d = some i)
    (ha : ∀ v, a ≠ voiceAddr v 4) {s : State} (hs : s.alive = true) :
    (encode i).word.toNat = 256 * a.val + d.toNat ∧ ∃ t, exec i s = .next t ∧ StoredOnly a d s t := by
  refine ⟨encode_writeRow_toNat hi, ?_⟩
  rw [exec_writeRow hi, writeEffect_eq_noEffect ha]
  exact busWrite_store a d hs

/-- Register k of voice v, no CONTROL register: its word, the store and the frame. -/
theorem store_of_voice_writeRow {v : Fin 3} {k : Fin 7} {d : Byte} {i : Instr}
    (hi : writeRow (voiceAddr v k).val d = some i) (hk : k ≠ 4) {s : State} (hs : s.alive = true) :
    (encode i).word.toNat = 0x0100 * k.val + 0x0700 * v.val + d.toNat ∧
      ∃ t, exec i s = .next t ∧ StoredOnly (voiceAddr v k) d s t := by
  obtain ⟨hword, hstore⟩ := store_of_writeRow hi (fun u h => hk (voiceAddr_inj.mp h).2) hs
  refine ⟨?_, hstore⟩
  rw [hword, voiceAddr_val]
  omega

/-! ## The row of each write, by voice -/

theorem writeRow_wrFreqLo (v : Fin 3) (d : Byte) : writeRow (voiceAddr v 0).val d = some (wrFreqLo v d) := by
  fin_cases v <;> rfl

theorem writeRow_wrFreqHi (v : Fin 3) (d : Byte) : writeRow (voiceAddr v 1).val d = some (wrFreqHi v d) := by
  fin_cases v <;> rfl

theorem writeRow_wrPwLo (v : Fin 3) (d : Byte) : writeRow (voiceAddr v 2).val d = some (wrPwLo v d) := by
  fin_cases v <;> rfl

theorem writeRow_wrPwHi (v : Fin 3) (d : Byte) : writeRow (voiceAddr v 3).val d = some (wrPwHi v d) := by
  fin_cases v <;> rfl

theorem writeRow_wrAd (v : Fin 3) (d : Byte) : writeRow (voiceAddr v 5).val d = some (wrAd v d) := by
  fin_cases v <;> rfl

theorem writeRow_wrSr (v : Fin 3) (d : Byte) : writeRow (voiceAddr v 6).val d = some (wrSr v d) := by
  fin_cases v <;> rfl

/-- Settles O8: each byte of the frequency is a register of its own. -/
theorem frequencyWrites : Obligations.FrequencyWrites := by
  intro v d s hs
  obtain ⟨hlow, tl, hl, sl⟩ := store_of_voice_writeRow (writeRow_wrFreqLo v d) (by decide) hs
  obtain ⟨hhigh, th, hh, sh⟩ := store_of_voice_writeRow (writeRow_wrFreqHi v d) (by decide) hs
  have hlo := (s.reg (voiceAddr v 0)).isLt
  refine ⟨by omega, by omega, ⟨tl, hl, sl, ?_⟩, ⟨th, hh, sh, ?_⟩⟩
  · rw [freq_toNat, freq_toNat, storedOnly_reg sl, storedOnly_voice_reg_of_ne sl (by decide)]
    omega
  · rw [freq_toNat, freq_toNat, storedOnly_reg sh, storedOnly_voice_reg_of_ne sh (by decide)]
    omega

/-- Settles O9: the pulse width takes the low byte and the low nibble of the high one. -/
theorem pulseWidthWrites : Obligations.PulseWidthWrites := by
  intro v d s hs
  obtain ⟨hlow, tl, hl, sl⟩ := store_of_voice_writeRow (writeRow_wrPwLo v d) (by decide) hs
  obtain ⟨hhigh, th, hh, sh⟩ := store_of_voice_writeRow (writeRow_wrPwHi v d) (by decide) hs
  have hlo := (s.reg (voiceAddr v 2)).isLt
  refine ⟨hlow, hhigh, ⟨tl, hl, sl, ?_⟩, ⟨th, hh, sh, ?_⟩⟩
  · rw [pw_toNat, pw_toNat, storedOnly_reg sl, storedOnly_voice_reg_of_ne sl (by decide)]
    omega
  · rw [pw_toNat, pw_toNat, storedOnly_reg sh, storedOnly_voice_reg_of_ne sh (by decide)]
    omega

/-- Settles O11: each of the two registers holds two rates, a nibble each. -/
theorem envelopeRateWrites : Obligations.EnvelopeRateWrites := by
  intro v d s hs
  obtain ⟨hadWord, ta, ha, sa⟩ := store_of_voice_writeRow (writeRow_wrAd v d) (by decide) hs
  obtain ⟨hsrWord, tr, hr, sr⟩ := store_of_voice_writeRow (writeRow_wrSr v d) (by decide) hs
  refine ⟨hadWord, hsrWord, ⟨ta, ha, sa, ?_, ?_⟩, ⟨tr, hr, sr, ?_, ?_⟩⟩
  · rw [attack_toNat, storedOnly_reg sa]
  · rw [decay_toNat, storedOnly_reg sa]
  · rw [sustain_toNat, storedOnly_reg sr]
  · rw [release_toNat, storedOnly_reg sr]

/-- Settles O12: the cutoff is spread over two registers; the other two hold fields of one register each. -/
theorem filterWrites : Obligations.FilterWrites := by
  intro d s hs
  have hstore {a : Fin 29} {i : Instr} (hi : writeRow a.val d = some i) (ha : 21 ≤ a.val) :=
    store_of_writeRow hi (fun v => ne_voiceAddr_of_le ha v 4) hs
  refine ⟨?_, ?_, ?_, ?_⟩
  · obtain ⟨hword, t, ht, st⟩ := hstore (a := 21) rfl (by decide)
    refine ⟨hword, t, ht, st, ?_⟩
    rw [fc_toNat, fc_toNat, storedOnly_reg st, storedOnly_reg_of_ne (b := 22) st (by decide)]
    omega
  · obtain ⟨hword, t, ht, st⟩ := hstore (a := 22) rfl (by decide)
    refine ⟨hword, t, ht, st, ?_⟩
    rw [fc_toNat, fc_toNat, storedOnly_reg st, storedOnly_reg_of_ne (b := 21) st (by decide)]
    omega
  · obtain ⟨hword, t, ht, st⟩ := hstore (a := 23) rfl (by decide)
    exact ⟨hword, t, ht, st, by rw [res_toNat, storedOnly_reg st], by rw [filt_toNat, storedOnly_reg st]⟩
  · obtain ⟨hword, t, ht, st⟩ := hstore (a := 24) rfl (by decide)
    refine ⟨hword, t, ht, st, by rw [vol_toNat, storedOnly_reg st], ?_⟩
    rw [State.lpOn, State.bpOn, State.hpOn, State.off3, storedOnly_reg st]
    exact ⟨rfl, rfl, rfl, rfl⟩

theorem readSideWrites_row {p : Fin 29 × (Byte → Instr)} (hp : p ∈ readSideWrites) (d : Byte) :
    writeRow p.1.val d = some (p.2 d) ∧ 25 ≤ p.1.val := by
  revert p
  simp only [readSideWrites, List.forall_mem_cons]
  exact ⟨⟨rfl, by decide⟩, ⟨rfl, by decide⟩, ⟨rfl, by decide⟩, ⟨rfl, by decide⟩, fun _ hp => nomatch hp⟩

/-- Settles O13: the read side's addresses are above those of the voices. -/
theorem readSideWritesStore : Obligations.ReadSideWrites := by
  intro p hp d s hs
  obtain ⟨hrow, ha⟩ := readSideWrites_row hp d
  exact store_of_writeRow hrow (fun v => ne_voiceAddr_of_le (by omega) v 4) hs

/-! ## The read rows -/

/-- The word of a register read (spec/30_encoding.md R70). -/
theorem encode_readRow_toNat {a : Fin 29} {i : Instr} (hi : readRow a.val = some i) :
    (encode i).word.toNat = 0x4000 + 0x0100 * a.val := by
  rw [encode_readRow hi, busReadWord_toNat, BitVec.toNat_ofNat, Nat.mod_eq_of_lt (by omega)]

/-- A read of an address from 0 to 24 is a READ of the stored byte (spec/40_orchestrator.md R117). -/
theorem exec_readRow_stored {a : Fin 29} {i : Instr} (hi : readRow a.val = some i) (ha : a.val < 25) (s : State) :
    exec i s = busRead a.val storedValue s := by
  obtain ⟨a, h29⟩ := a
  replace ha : a < 25 := ha
  interval_cases a <;> (cases hi; rfl)

theorem exec_readRow_stored_alive {a : Fin 29} {i : Instr} (hi : readRow a.val = some i) (ha : a.val < 25) {s : State}
    (hs : s.alive = true) : exec i s = .next (s.withResult (.byte (s.reg a))) := by
  rw [exec_readRow_stored hi ha]
  exact busRead_alive a storedValue hs

theorem storedReads_row {p : Fin 29 × Instr} (hp : p ∈ storedReads) :
    readRow p.1.val = some p.2 ∧ p.1.val < 25 := by
  revert p
  decide

/-- Settles O15: the rows of `storedReads` are those of addresses 0 to 24. -/
theorem storedReadsReturn : Obligations.StoredReads := by
  intro p hp s hs
  obtain ⟨hrow, ha⟩ := storedReads_row hp
  exact ⟨encode_readRow_toNat hrow, exec_readRow_stored_alive hrow ha hs⟩

/-! ## The live reads (spec/40_orchestrator.md R118 to R121) -/

theorem exec_rdPotX {s : State} (hs : s.alive = true) : exec .rdPotX s = .next (s.withResult (.byte 0xFF#8)) :=
  busRead_alive 25 potXValue hs

theorem exec_rdPotY {s : State} (hs : s.alive = true) : exec .rdPotY s = .next (s.withResult (.byte 0xFF#8)) :=
  busRead_alive 26 potYValue hs

theorem exec_rdOsc3 {s : State} (hs : s.alive = true) :
    exec .rdOsc3 s = .next (s.withResult (.byte ((wave s 2).extractLsb' 4 8))) :=
  busRead_alive 27 osc3Value hs

theorem exec_rdEnv3 {s : State} (hs : s.alive = true) :
    exec .rdEnv3 s = .next (s.withResult (.byte (s.voice 2).level)) :=
  busRead_alive 28 env3Value hs

/-- With no waveform selected the output is 0 (spec/42_oscillator.md R169). -/
theorem wave_eq_zero_of_sel {s : State} {v : Fin 3} (h : s.sel v = 0#4) : wave s v = 0#12 := if_pos h

/-- The selector is the high nibble of CONTROL. -/
theorem sel_eq_zero_of_lt {s : State} {v : Fin 3} (h : (s.ctrl v).toNat < 16) : s.sel v = 0#4 := by
  apply BitVec.eq_of_toNat_eq
  rw [sel_toNat, BitVec.toNat_ofNat]
  omega

theorem highByte_toNat (x : BitVec 12) : (x.extractLsb' 4 8).toNat = x.toNat / 16 := by
  have := x.isLt
  simp only [BitVec.extractLsb'_toNat, Nat.shiftRight_eq_div_pow]
  omega

/-- Settles O16: the four live values, none of which is the stored byte. -/
theorem liveReads : Obligations.LiveReads := by
  intro s hs
  refine ⟨exec_rdPotX hs, exec_rdPotY hs, ⟨_, exec_rdOsc3 hs, highByte_toNat _, fun hctrl => ?_⟩, exec_rdEnv3 hs⟩
  have hctrl : (s.ctrl 2).toNat < 16 := hctrl
  rw [wave_eq_zero_of_sel (sel_eq_zero_of_lt hctrl)]
  rfl

/-! ## A write, then a read -/

/-- A register write that completes leaves its byte in the register. -/
theorem reg_of_writeRow {a : Fin 29} {d : Byte} {i : Instr} (hi : writeRow a.val d = some i) {s t : State}
    (h : exec i s = .next t) : s.alive = true ∧ t.alive = true ∧ t.reg a = d := by
  rw [exec_writeRow hi] at h
  obtain ⟨hs, -, rfl⟩ := busWrite_next h
  refine ⟨hs, ?_, ?_⟩
  · rw [State.withResult_alive, writeEffect_alive, State.withReg_alive, hs]
  · rw [State.withResult_reg, writeEffect_reg, State.withReg_reg, if_pos rfl]

/-- A register write of the read side that completes changes nothing that is read. -/
theorem sameButReadSide_of_writeRow {a : Fin 29} {d : Byte} {i : Instr} (hi : writeRow a.val d = some i)
    (ha : 25 ≤ a.val) {s t : State} (h : exec i s = .next t) : SameButReadSide (s.withResult .none) t := by
  obtain ⟨hs, -⟩ := reg_of_writeRow hi h
  obtain ⟨-, u, hu, hframe, -, hother⟩ := store_of_writeRow hi (fun v => ne_voiceAddr_of_le (by omega) v 4) hs
  obtain rfl := Host.Outcome.next.inj (h.symm.trans hu)
  exact ⟨hframe, fun b hb => hother b fun e => by omega⟩

/-- The answers of the live reads are the same in states that differ in the read side's bytes and the result alone. -/
theorem exec_readRow_live {a : Nat} {j : Instr} (hj : readRow a = some j) (ha : 25 ≤ a) {s t : State}
    (hst : SameButReadSide (s.withResult .none) t) (hs : s.alive = true) (ht : t.alive = true) :
    ∃ b, exec j s = .next (s.withResult (.byte b)) ∧ exec j t = .next (t.withResult (.byte b)) := by
  have h29 : a < 29 := (readRow_isSome a).mp (by rw [hj]; rfl)
  have hwave : wave t 2 = wave s 2 := hst.wave_eq 2
  have hvoice : t.voice 2 = s.voice 2 := hst.voice_eq 2
  interval_cases a <;> cases hj
  · exact ⟨_, exec_rdPotX hs, exec_rdPotX ht⟩
  · exact ⟨_, exec_rdPotY hs, exec_rdPotY ht⟩
  · exact ⟨_, exec_rdOsc3 hs, hwave ▸ exec_rdOsc3 ht⟩
  · exact ⟨_, exec_rdEnv3 hs, hvoice ▸ exec_rdEnv3 ht⟩

/-- Settles O17: below 25 the read gives the register, which the write has set; from 25 on it gives a live value, which
no byte of the read side reaches. -/
theorem writeThenRead : Obligations.WriteThenRead := by
  intro a d i j s t t' hi hj hexec hread
  have h29 : a < 29 := (writeRow_isSome a d).mp (by rw [hi]; rfl)
  obtain ⟨hs, ht, hreg⟩ := reg_of_writeRow (a := ⟨a, h29⟩) hi hexec
  constructor
  · intro ha
    have hstored := exec_readRow_stored_alive (a := ⟨a, h29⟩) hj ha ht
    rw [← Host.Outcome.next.inj (hstored.symm.trans hread), hreg]
    rfl
  · intro ha
    have hst := sameButReadSide_of_writeRow (a := ⟨a, h29⟩) hi ha hexec
    obtain ⟨b, hbefore, hafter⟩ := exec_readRow_live hj ha hst hs ht
    refine ⟨_, hbefore, ?_⟩
    rw [← Host.Outcome.next.inj (hafter.symm.trans hread)]
    rfl

end Sys2Proof.Machine
end

section
/-! RELEASE, the latches and the output: O19, O21, O22 and O23. -/

namespace Sys2Proof.Machine

open Sys2Proof Sys2Proof.Safety

/-! ## `alive` -/

/-- Every command but CREATE checks `alive` first (spec/60_exceptions.md R303). -/
theorem exec_of_not_alive {i : Instr} (hi : i ≠ .create) {s : State} (hs : s.alive = false) :
    exec i s = .refused .notAlive := by
  cases i with
  | create => exact absurd rfl hi
  | _ => exact whenAlive_dead hs _

theorem exec_release {s : State} (hs : s.alive = true) :
    exec .release s = .next { s with alive := false, result := .none } :=
  whenAlive_alive hs _

/-- Settles O19: RELEASE leaves a state that is not alive, in which every command but CREATE fails its first check. -/
theorem releaseEndsInstance : Obligations.ReleaseEndsInstance := by
  intro s
  have hdead : s.alive = false → exec .release s = .refused .notAlive := exec_of_not_alive (by decide)
  refine ⟨rfl, hdead, exec_release, fun t i ht hi => exec_of_not_alive hi ?_⟩
  rcases Bool.eq_false_or_eq_true s.alive with hs | hs
  · rw [← Host.Outcome.next.inj ((exec_release hs).symm.trans ht)]
  · exact nomatch (hdead hs).symm.trans ht

/-! ## The latches -/

theorem modelOfOperand_eq_none {m : Int} (h0 : m ≠ 0) (h1 : m ≠ 1) : modelOfOperand m = none := by
  rw [modelOfOperand, if_neg h0, if_neg h1]

theorem exec_setChipModel_bad {m : Int} (h0 : m ≠ 0) (h1 : m ≠ 1) {s : State} (hs : s.alive = true) :
    exec (.setChipModel m) s = .refused .badModel := by
  rw [exec, execSetChipModel, whenAlive_alive hs, modelOfOperand_eq_none h0 h1]

/-- Settles O21: each command stores its latch and no more; the operand 0 is A and 1 is B. -/
theorem configurationLatches : Obligations.ConfigurationLatches := fun _ hs =>
  ⟨whenAlive_alive hs _, whenAlive_alive hs _, fun _ h0 h1 => exec_setChipModel_bad h0 h1 hs,
    fun _ => whenAlive_alive hs _, fun _ => whenAlive_alive hs _⟩

/-- A sample in range is stored as it is (spec/00_scope.md R11). -/
theorem s16_toInt {x : Int} (h1 : -32768 ≤ x) (h2 : x ≤ 32767) : (s16 x).toInt = x := by
  rw [s16, BitVec.toInt_ofInt]
  exact Int.bmod_eq_of_le (by omega) (by omega)

theorem exec_input {s : State} (hs : s.alive = true) (x : Int) :
    exec (.input x) s = if -32768 ≤ x ∧ x ≤ 32767 then .next { s with extIn := s16 x, result := .none }
      else .refused .badSample := by
  rw [exec, execInput, whenAlive_alive hs, ← Bool.decide_and]
  by_cases hx : -32768 ≤ x ∧ x ≤ 32767
  · rw [if_pos hx, decide_eq_true hx, require_ok]
    rfl
  · rw [if_neg hx, decide_eq_false hx, require_fail]

/-- Settles O22: the check is the range of an s16, in which the latch holds the sample itself. -/
theorem inputLatch : Obligations.InputLatch := by
  intro x s hs
  rw [exec_input hs x]
  refine ⟨fun hx => ?_, fun hx => if_neg hx⟩
  rw [if_pos hx]
  exact ⟨_, rfl, rfl, s16_toInt hx.1 hx.2⟩

/-! ## The output (spec/45_external_filter.md R243) -/

theorem clamp_eq {x lo hi : Int} (h : lo ≤ hi) : clamp x lo hi = max lo (min hi x) := by
  rw [clamp]
  omega

theorem clamp_bounds {x lo hi : Int} (h : lo ≤ hi) : lo ≤ clamp x lo hi ∧ clamp x lo hi ≤ hi := by
  rw [clamp]
  omega

/-- The range of a depth is not empty. -/
theorem neg_half_le (bits : Nat) : -(2 ^ (bits - 1) : Int) ≤ 2 ^ (bits - 1) - 1 := by
  have : (0 : Int) < 2 ^ (bits - 1) := by positivity
  omega

/-- The scaled output: truncated toward zero, then clamped to the depth. -/
theorem outScale_eq_clamped (bits : Nat) (s : State) :
    outScale bits s =
      max (-2 ^ (bits - 1)) (min (2 ^ (bits - 1) - 1) (Int.tdiv s.extOut.toInt ((734220 / 2 ^ bits : Nat) : Int))) :=
  clamp_eq (neg_half_le bits)

theorem outScale_bounds (bits : Nat) (s : State) :
    -2 ^ (bits - 1) ≤ outScale bits s ∧ outScale bits s < 2 ^ (bits - 1) := by
  have h : -2 ^ (bits - 1) ≤ outScale bits s ∧ outScale bits s ≤ 2 ^ (bits - 1) - 1 := clamp_bounds (neg_half_le bits)
  omega

/-- The divisor of a depth up to 19 is not 0. -/
theorem outDivisor_pos {bits : Nat} (h : bits ≤ 19) : 1 ≤ 734220 / 2 ^ bits := by
  have : 2 ^ bits ≤ 2 ^ 19 := Nat.pow_le_pow_right (by decide) h
  exact Nat.div_pos (by omega) (Nat.two_pow_pos bits)

theorem exec_outputBits {s : State} (hs : s.alive = true) (bits : Int) :
    exec (.outputBits bits) s = if 1 ≤ bits ∧ bits ≤ 19 then .next (s.withResult (.sample (outScale bits.toNat s)))
      else .refused .badBits := by
  rw [exec, execOutputBits, whenAlive_alive hs, ← Bool.decide_and]
  by_cases hb : 1 ≤ bits ∧ bits ≤ 19
  · rw [if_pos hb, decide_eq_true hb, require_ok, done_eq]
  · rw [if_neg hb, decide_eq_false hb, require_fail]

theorem outScale_default (s : State) : outScale Params.defaultBits s = outOf s :=
  outScale_eq_clamped 16 s

/-- Settles O23: OUTPUT and OUTPUT_BITS answer the scaled output, whose divisor is positive at the depths that pass the
check. -/
theorem outputScaling : Obligations.OutputScaling := by
  intro s hs
  refine ⟨fun _ => rfl, fun b h1 h19 => ?_, fun b hb => ?_, ?_⟩
  · obtain ⟨hlow, hhigh⟩ := outScale_bounds b s
    refine ⟨outScale b s, ?_, outScale_eq_clamped b s, hlow, hhigh, outDivisor_pos h19⟩
    rw [exec_outputBits hs, if_pos (by omega)]
    rfl
  · rw [exec_outputBits hs, if_neg (by omega)]
  · rw [← outScale_default]
    exact whenAlive_alive hs _

end Sys2Proof.Machine
end

section
/-! The clocking commands (spec/41_clocking.md): O24, O25 and O26. -/

namespace Sys2Proof.Machine

open Sys2Proof Sys2Proof.Safety

/-! ## The operand checks -/

theorem countInRange_eq_decide (n : Int) : countInRange n = decide (CountOk n) :=
  (Bool.decide_and _ _).symm

theorem interleaveInRange_eq_decide (il : Int) : interleaveInRange il = decide (InterleaveOk il) :=
  (Bool.decide_and _ _).symm

/-! ## CLOCK1 and CLOCKN -/

theorem exec_clock1 {s : State} (hs : s.alive = true) : exec .clock1 s = .next { clock 1 s with result := .none } :=
  whenAlive_alive hs _

theorem exec_clockN {s : State} (hs : s.alive = true) (n : Int) :
    exec (.clockN n) s =
      if CountOk n then .next { clock n.toNat s with result := .none } else .refused .badCount := by
  rw [exec, execClockN, whenAlive_alive hs, countInRange_eq_decide]
  by_cases hn : CountOk n
  · rw [if_pos hn, decide_eq_true hn, require_ok]
    rfl
  · rw [if_neg hn, decide_eq_false hn, require_fail]

/-- The ring's index moves on by one a cycle, around the ring (spec/46_sampler.md R262). -/
theorem clock_ri_toNat (k : Nat) (s : State) : (clock k s).ri.toNat = (s.ri.toNat + k) % 16384 := by
  induction k with
  | zero => exact (Nat.mod_eq_of_lt s.ri.isLt).symm
  | succ k ih =>
    rw [clock_succ_last, cycleStep_ri, BitVec.toNat_add, ih]
    exact Nat.mod_add_mod (s.ri.toNat + k) 16384 1

/-- Settles O24: the two commands clock after their checks, and each cycle keeps the frame and moves the index by one. -/
theorem clockCommands : Obligations.ClockCommands :=
  ⟨fun _ hs => exec_clock1 hs, fun n _ hs hn => (exec_clockN hs n).trans (if_pos hn),
    fun n _ hs hn => (exec_clockN hs n).trans (if_neg hn), clock_zero, clock_succ_last,
    fun k s => ⟨clock_frame k s, clock_ri_toNat k s⟩⟩

/-! ## Cycle accuracy (spec/41_clocking.md R146) -/

/-- CLOCK1, k times, leaves the state of k cycles; only the result depends on whether a command ran at all. -/
theorem repeatExec_clock1 (k : Nat) {s : State} (hs : s.alive = true) :
    ∃ r, repeatExec .clock1 k s = .next { clock k s with result := r } := by
  induction k generalizing s with
  | zero => exact ⟨s.result, rfl⟩
  | succ k ih =>
    obtain ⟨r, hr⟩ := ih (s := { clock 1 s with result := .none }) ((clock_alive 1 s).trans hs)
    refine ⟨r, ?_⟩
    rw [repeatExec, exec_clock1 hs]
    show repeatExec .clock1 k { clock 1 s with result := .none } = _
    rw [hr, clock_with_result]
    rfl

/-- CLOCK_SAMPLES on operands in their domain passes its three checks (spec/41_clocking.md R145). -/
theorem exec_clockSamples {dt n il : Int} {buf : List Sample} {s : State} (hs : s.alive = true) (hdt : CountOk dt)
    (hn : CountOk n) (hil : InterleaveOk il) (hroom : n * il ≤ buf.length) :
    exec (.clockSamples dt buf n il) s = clockSamplesRun dt.toNat buf n.toNat il.toNat s := by
  rw [exec, execClockSamples, whenAlive_alive hs, countInRange_eq_decide, countInRange_eq_decide,
    interleaveInRange_eq_decide, decide_eq_true hdt, decide_eq_true hn, decide_eq_true hil, decide_eq_true hroom]
  rfl

/-- Settles O25: n CLOCK1 commands clock n times, and a run of CLOCK_SAMPLES clocks by the cycles it counts. -/
theorem cycleAccuracy : Obligations.CycleAccuracy := by
  constructor
  · intro n s hs hn
    obtain ⟨r, hr⟩ := repeatExec_clock1 n.toNat hs
    exact ⟨_, _, (exec_clockN hs n).trans (if_pos hn), hr, rfl⟩
  · intro dt n il buf s t w rem hexec hcounts
    obtain ⟨hs, ⟨hdt, hn⟩, hil, hroom, -⟩ := execClockSamples_next hexec
    rw [exec_clockSamples hs hdt hn hil hroom, clockSamplesRun_eq] at hexec
    obtain rfl := Host.Outcome.next.inj hexec
    obtain ⟨-, rfl⟩ := Result.counts.inj hcounts
    obtain ⟨hle, -⟩ := pureRun_state s.method n.toNat dt.toNat s
    exact ⟨hle, rfl⟩

/-! ## The bounds of CLOCK_SAMPLES (spec/46_sampler.md R261) -/

/-- A tail of no cycles changes nothing. -/
theorem runTail_zero (m : SampleMethod) (s : State) : runTail m 0 s = s := by
  have hso : s32 (s.so.toInt - ((0 : Nat) : Int) * 2 ^ 16) = s.so := by
    rw [Nat.cast_zero, Int.zero_mul, Int.sub_zero]
    exact BitVec.ofInt_toInt
  have hprev : prevAfterTail m 0 s = s.sprev := by cases m <;> rfl
  rw [runTail_state, hso, hprev]
  rfl

/-- A run of no cycles writes nothing and changes nothing: every sample takes a cycle (spec/46_sampler.md R257). -/
theorem pureRunOf_zero (m : SampleMethod) (cap : Nat) (s : State) :
    pureRunOf m cap 0 s = { state := s, samples := [], remaining := 0 } := by
  rw [pureRunOf_tail (cyclesToSample_pos m s), runTail_zero]

theorem clockSamplesRun_zero (buf : List Sample) (n il : Nat) (s : State) :
    clockSamplesRun 0 buf n il s = .next { s with callerBuf := buf, result := .counts 0 0 } := by
  rw [clockSamplesRun_run, pureRunOf_zero]
  rfl

/-- Settles O26: the checks pass, the bounds are those of the run apart from the buffer, and a run of no cycles is
empty. -/
theorem clockSamplesCompletes : Obligations.ClockSamplesCompletes := by
  intro dt n il buf s hs hdt hn hil hroom
  have hexec := exec_clockSamples hs hdt hn hil hroom
  obtain ⟨hrem, -⟩ := pureRun_state s.method n.toNat dt.toNat s
  obtain ⟨hwritten, hfull⟩ := pureRun_counts s.method n.toNat dt.toNat s
  refine ⟨_, _, _, hexec.trans (clockSamplesRun_run ..), rfl, ?_, ?_, fun h => ?_, writeAll_length .., fun h0 => ?_⟩
  · omega
  · omega
  · have := hfull h
    omega
  · subst h0
    exact Host.Outcome.next.inj ((clockSamplesRun_run ..).symm.trans (clockSamplesRun_zero buf n.toNat il.toNat s))

end Sys2Proof.Machine
end

section
/-! The oscillators (spec/42_oscillator.md): a voice's accumulator and noise register over a cycle, the waveforms, and a
voice whose frequency is 0. O38 to O43. -/

namespace Sys2Proof.Machine

open Sys2Proof Sys2Proof.Safety

/-! ## The accumulator and the noise register over a CLOCK1 -/

/-- A CLOCK1 that completes leaves the voices of one cycle. -/
theorem voice_of_exec_clock1 {s t : State} (h : exec .clock1 s = .next t) (v : Fin 3) :
    t.voice v = (cycleStep s).voice v := by
  obtain ⟨-, h⟩ := whenAlive_next h
  obtain rfl := Host.Outcome.next.inj h
  rfl

theorem oscAdvance_of_test {s : State} {v : Fin 3} (ht : s.test v = true) :
    oscAdvance s v = testHold s.variant.noiseModel (s.voice v) := if_pos ht

/-- The add of stage 1 (spec/42_oscillator.md R160). -/
theorem oscAdvance_acc_toNat {s : State} {v : Fin 3} (ht : s.test v = false) :
    (oscAdvance s v).acc.toNat = addOf s v % 2 ^ 24 := by
  rw [oscAdvance, ht]
  exact BitVec.toNat_ofNat ..

/-- Hard sync clears the accumulator in a cycle (spec/42_oscillator.md R171). -/
theorem sync_condition_iff {s : State} {v : Fin 3} (ht : s.test v = false) :
    (s.sync v && oscTrig s (src v) && !s.test v) = true ↔ s.sync v = true ∧ triggers s (v + 2) := by
  rw [ht, Bool.not_false, Bool.and_true, Bool.and_eq_true, oscTrig_iff]
  rfl

theorem cycleStep_acc_of_test {s : State} {v : Fin 3} (ht : s.test v = true) :
    ((cycleStep s).voice v).acc = 0#24 := by
  rw [cycleStep_acc, oscAdvance_of_test ht]
  exact ite_self _

theorem cycleStep_acc_of_sync {s : State} {v : Fin 3} (ht : s.test v = false)
    (h : s.sync v = true ∧ triggers s (v + 2)) : ((cycleStep s).voice v).acc = 0#24 := by
  rw [cycleStep_acc, if_pos ((sync_condition_iff ht).2 h)]

theorem cycleStep_acc_of_add {s : State} {v : Fin 3} (ht : s.test v = false)
    (h : ¬(s.sync v = true ∧ triggers s (v + 2))) :
    ((cycleStep s).voice v).acc.toNat = addOf s v % 2 ^ 24 := by
  rw [cycleStep_acc, if_neg (mt (sync_condition_iff ht).1 h), oscAdvance_acc_toNat ht]

/-- Settles O38: the test hold, the sync and the add are the three cases of a cycle. -/
theorem accumulatorCycle : Obligations.AccumulatorCycle := by
  intro s t v h
  rw [voice_of_exec_clock1 h]
  exact ⟨cycleStep_acc_of_test, fun ht hs htrig => cycleStep_acc_of_sync ht ⟨hs, htrig⟩, cycleStep_acc_of_add⟩

/-- The shift under both noise models: all bits but the highest of the width move up by one. -/
theorem lfsrNext_div_two (m : Config.NoiseModel) (r : BitVec 23) :
    (lfsrNext m r).toNat / 2 = r.toNat % 2 ^ (Params.noiseWidth m - 1) := by
  cases m with
  | doc12 => exact (lfsrNext_doc12 r).1
  | resid23 => exact (lfsrNext_resid23 r).1

/-- Settles O39: the noise register after a cycle is the one after stage 1, at its seed, shifted, or as it was. -/
theorem noiseCycle : Obligations.NoiseCycle := by
  intro s t v _ h
  simp only
  rw [voice_of_exec_clock1 h, cycleStep_lfsr]
  refine ⟨fun ht => ?_, fun ht hrises => ?_, fun ht hrises => ?_⟩
  · rw [oscAdvance_of_test ht, testHold]
  · rw [oscAdvance_lfsr ht, if_neg hrises]
  · rw [oscAdvance_lfsr ht, if_pos hrises]
    refine ⟨lfsrNext_div_two _ _, fun hm => ?_, fun hm => ?_⟩
    · rw [hm]
      exact (lfsrNext_doc12 _).2
    · rw [hm]
      exact (lfsrNext_resid23 _).2

/-! ## The lock state of the noise register (spec/42_oscillator.md R173) -/

theorem cycleStep_lfsr_ne_zero {s : State} {v : Fin 3} (hw : LfsrInWidth s) (h0 : (s.voice v).lfsr ≠ 0#23) :
    ((cycleStep s).voice v).lfsr ≠ 0#23 := by
  rw [cycleStep_lfsr]
  obtain e | e | e := oscAdvance_lfsr_cases s v <;> rw [e]
  · exact noiseSeed_ne_zero _
  · exact lfsrNext_ne_zero _ (hw v) h0
  · exact h0

theorem clock_lfsr_ne_zero (k : Nat) {s : State} {v : Fin 3} (hw : LfsrInWidth s) (h0 : (s.voice v).lfsr ≠ 0#23) :
    ((clock k s).voice v).lfsr ≠ 0#23 :=
  (clock_induct (P := fun s => LfsrInWidth s ∧ (s.voice v).lfsr ≠ 0#23)
    (fun _ h => ⟨cycleStep_lfsrInWidth h.1, cycleStep_lfsr_ne_zero h.1 h.2⟩) k ⟨hw, h0⟩).2

theorem created_lfsr_ne_zero (args : Config.CreateArgs) (v : Fin 3) : ((State.created args).voice v).lfsr ≠ 0#23 := by
  rw [(atPowerUp_created args).lfsr]
  exact noiseSeed_ne_zero _

/-- A CONTROL write leaves a noise register as it is, or at the seed. -/
theorem ctrlEffect_lfsr_ne_zero (v : Fin 3) (old new : Byte) {s : State} {u : Fin 3} (h0 : (s.voice u).lfsr ≠ 0#23) :
    ((ctrlEffect v old new s).voice u).lfsr ≠ 0#23 := by
  rw [ctrlEffect_voice]
  split
  case isTrue huv =>
    rw [gateEdge_lfsr]
    split
    · exact noiseSeed_ne_zero _
    · exact huv ▸ h0
  case isFalse => exact h0

/-- Of the effects of a command only a restored snapshot reaches the lock state. -/
theorem Effect.lfsr_ne_zero {i : Instr} {s t : State} {v : Fin 3} (he : Effect i s t) (hw : LfsrInWidth s)
    (h0 : (s.voice v).lfsr ≠ 0#23) (hi : ∀ blob, i ≠ .writeState blob) : (t.voice v).lfsr ≠ 0#23 := by
  cases he with
  | control u d => exact ctrlEffect_lfsr_ne_zero u (s.ctrl u) d (s := s.withReg (voiceAddr u 4) d) h0
  | created => exact created_lfsr_ne_zero s.createArgs v
  | afterReset => exact created_lfsr_ne_zero { variant := s.variant, tables := s.tables } v
  | clocked k => exact clock_lfsr_ne_zero k hw h0
  | restored blob h => exact absurd h (hi blob)
  | store | answer | released | latched | committed | adjusted => exact h0

/-- Settles O40: neither a shift, nor the seed, nor a command that leaves the register alone gives 0. -/
theorem noiseNeverLocks : Obligations.NoiseNeverLocks := fun _ _ _ _ hw h0 h hi =>
  (exec_effect h).2.lfsr_ne_zero hw h0 hi

/-! ## The component waveforms (spec/42_oscillator.md R164 to R168) -/

theorem acc_msb (x : BitVec 24) : x[23] = decide (2 ^ 23 ≤ x.toNat) := by
  have := x.isLt
  rw [← BitVec.getLsbD_eq_getElem, getLsbD_eq_div]
  exact decide_eq_decide.2 (by omega)

/-- Bits 22:11 of the accumulator, inverted or not. -/
theorem fold_toNat (b : Bool) (x : BitVec 24) :
    ((if b then ~~~x else x).extractLsb' 11 12).toNat =
      (if b then 2 ^ 24 - 1 - x.toNat else x.toNat) / 2 ^ 11 % 2 ^ 12 := by
  cases b <;> simp [BitVec.extractLsb'_toNat, Nat.shiftRight_eq_div_pow]

/-- The fold bit: bit 23, inverted by the source voice's where ring modulation acts on the triangle (R167). -/
theorem tri_eq_fold (s : State) (v : Fin 3) :
    tri s v =
      (if (s.voice v).acc[23] ^^
          ((decide (s.variant.ringMode = .triMsbXor) && s.ringBit v) && (s.voice (src v)).acc[23])
        then ~~~(s.voice v).acc else (s.voice v).acc).extractLsb' 11 12 := by
  unfold tri
  cases decide (s.variant.ringMode = .triMsbXor) && s.ringBit v <;> simp

theorem tri_toNat (s : State) (v : Fin 3) :
    (tri s v).toNat =
      (if ((s.voice v).acc.toNat < 2 ^ 23 ↔
          ¬(s.variant.ringMode = .triMsbXor ∧ s.ringBit v = true ∧ 2 ^ 23 ≤ (s.voice (v + 2)).acc.toNat))
        then (s.voice v).acc.toNat else 2 ^ 24 - 1 - (s.voice v).acc.toNat) / 2 ^ 11 % 2 ^ 12 := by
  have hinverted : (decide (s.variant.ringMode = .triMsbXor) && s.ringBit v && (s.voice (src v)).acc[23]) =
      decide (s.variant.ringMode = .triMsbXor ∧ s.ringBit v = true ∧ 2 ^ 23 ≤ (s.voice (v + 2)).acc.toNat) := by
    rw [acc_msb, Bool.and_assoc, Bool.decide_and, Bool.decide_and, Bool.decide_eq_true]
    rfl
  rw [tri_eq_fold, fold_toNat, hinverted, acc_msb]
  simp only [Bool.xor_iff_ne, ne_eq, decide_eq_decide, ite_not, ← not_le, not_iff_not]

theorem saw_toNat (s : State) (v : Fin 3) : (saw s v).toNat = (s.voice v).acc.toNat / 2 ^ 12 := by
  have := (s.voice v).acc.isLt
  rw [saw, BitVec.extractLsb'_toNat, Nat.shiftRight_eq_div_pow]
  omega

theorem pulse_toNat (s : State) (v : Fin 3) :
    (pulse s v).toNat =
      if (s.pw v).toNat ≤
        (if s.variant.ringMode = .pulseSign ∧ s.ringBit v = true then (tri s (v + 2)).toNat
          else (s.voice v).acc.toNat / 2 ^ 12)
      then 0xFFF else 0 := by
  rw [pulse, apply_ite BitVec.toNat, apply_ite BitVec.toNat, saw_toNat]
  simp only [Bool.and_eq_true, decide_eq_true_eq]
  rfl

theorem noise_toNat (s : State) (v : Fin 3) :
    (noise s v).toNat = (noiseOut s.variant.noiseModel (s.voice v).lfsr).toNat * 16 :=
  append_toNat _ _

theorem noise_getLsbD (s : State) (v : Fin 3) (j : Nat) :
    (noise s v).getLsbD (4 + j) = (noiseOut s.variant.noiseModel (s.voice v).lfsr).getLsbD j := by
  rw [noise, BitVec.getLsbD_append, if_neg (by omega), Nat.add_sub_cancel_left]

/-- The taps of the 23-bit register, the least significant first (R168). -/
theorem noiseOut_resid23_getLsbD (r : BitVec 23) {j : Nat} (hj : j < 8) :
    (noiseOut .resid23 r).getLsbD j = r.getLsbD ([2, 4, 7, 11, 13, 16, 20, 22].getD j 0) := by
  simp only [noiseOut, BitVec.getLsbD_append]
  interval_cases j <;> simp

theorem noiseOut_doc12_toNat (r : BitVec 23) : (noiseOut .doc12 r).toNat = r.toNat / 16 % 256 := by
  rw [noiseOut, BitVec.extractLsb'_toNat, Nat.shiftRight_eq_div_pow]

/-- Settles O41: each waveform is a field of the accumulator or of the noise register, as an integer or bit by bit. -/
theorem componentWaveforms : Obligations.ComponentWaveforms := by
  intro s v
  refine ⟨tri_toNat s v, saw_toNat s v, pulse_toNat s v, fun hm => ?_, fun hm => ⟨?_, fun j hj => ?_⟩⟩
  · rw [noise_toNat, hm, noiseOut_doc12_toNat]
  · rw [noise_toNat, Nat.mul_mod_left]
  · rw [noise_getLsbD, hm, noiseOut_resid23_getLsbD _ hj]

/-! ## The combined waveforms (spec/42_oscillator.md R169) -/

/-- An unselected waveform stands as all ones in the AND. -/
theorem selected_getLsbD (b : Bool) (x : BitVec 12) {j : Nat} (hj : j < 12) :
    (if b then x else 0xFFF#12).getLsbD j = true ↔ (b = true → x.getLsbD j = true) := by
  have hones : (0xFFF#12).getLsbD j = true := (BitVec.getLsbD_allOnes (v := 12)).trans (decide_eq_true hj)
  cases b
  · exact iff_of_true hones Bool.noConfusion
  · exact ⟨fun h _ => h, fun h => h rfl⟩

theorem sel_getElem (s : State) (v : Fin 3) (i : Nat) (hi : i < 4) : (s.sel v)[i] = (s.ctrl v).getLsbD (4 + i) :=
  BitVec.getElem_extractLsb' hi

theorem sel_ne_zero {s : State} {v : Fin 3} (h : 16 ≤ (s.ctrl v).toNat) : s.sel v ≠ 0#4 := fun h0 => by
  have := sel_toNat s v
  rw [h0, BitVec.toNat_ofNat] at this
  omega

/-- Settles O42: below 16 no selector bit is set; from 16 on each bit of the AND is the conjunction of its four
terms. -/
theorem combinedWaveforms : Obligations.CombinedWaveforms := by
  refine fun s v => ⟨fun h => wave_eq_zero_of_sel (sel_eq_zero_of_lt h), fun h j hj => ?_⟩
  simp only [wave, if_neg (sel_ne_zero h), BitVec.getLsbD_and, Bool.and_eq_true, selected_getLsbD _ _ hj, sel_getElem,
    and_assoc]

/-! ## A voice at frequency 0 (spec/42_oscillator.md R162) -/

theorem clock_reg (k : Nat) (s : State) (a : Fin 29) : (clock k s).reg a = s.reg a := by
  rw [State.reg, clock_regs]
  rfl

theorem clock_freq (k : Nat) (s : State) (v : Fin 3) : (clock k s).freq v = s.freq v := by
  rw [State.freq, clock_reg, clock_reg]
  rfl

theorem clock_ctrl (k : Nat) (s : State) (v : Fin 3) : (clock k s).ctrl v = s.ctrl v := clock_reg k s _

theorem addOf_of_freq_zero {s : State} {v : Fin 3} (hf : s.freq v = 0#16) : addOf s v = (s.voice v).acc.toNat := by
  rw [addOf, hf]
  rfl

theorem cycleStep_oscillator_of_freq_zero {s : State} {v : Fin 3} (hf : s.freq v = 0#16) (ht : s.test v = false)
    (hs : s.sync v = false) :
    ((cycleStep s).voice v).acc = (s.voice v).acc ∧ ((cycleStep s).voice v).lfsr = (s.voice v).lfsr := by
  have hlt := (s.voice v).acc.isLt
  have hadd := addOf_of_freq_zero hf
  constructor
  · apply BitVec.eq_of_toNat_eq
    rw [cycleStep_acc_of_add ht (by simp [hs]), hadd, Nat.mod_eq_of_lt hlt]
  · rw [cycleStep_lfsr, oscAdvance_lfsr ht, hadd, if_neg (by omega)]

theorem clock_oscillator_of_freq_zero (k : Nat) {s : State} {v : Fin 3} (hf : s.freq v = 0#16)
    (ht : s.test v = false) (hs : s.sync v = false) :
    ((clock k s).voice v).acc = (s.voice v).acc ∧ ((clock k s).voice v).lfsr = (s.voice v).lfsr := by
  induction k with
  | zero => exact ⟨rfl, rfl⟩
  | succ k ih =>
    obtain ⟨hacc, hlfsr⟩ := cycleStep_oscillator_of_freq_zero (s := clock k s) ((clock_freq k s v).trans hf)
      (by rw [State.test, clock_ctrl]; exact ht) (by rw [State.sync, clock_ctrl]; exact hs)
    rw [clock_succ_last]
    exact ⟨hacc.trans ih.1, hlfsr.trans ih.2⟩

theorem tri_of_no_ring {s : State} {v : Fin 3} (h : s.ringBit v = false) :
    tri s v = (if (s.voice v).acc[23] then ~~~(s.voice v).acc else (s.voice v).acc).extractLsb' 11 12 := by
  simp [tri, h]

theorem pulse_of_no_ring {s : State} {v : Fin 3} (h : s.ringBit v = false) :
    pulse s v = if (s.pw v).toNat ≤ (saw s v).toNat then 0xFFF#12 else 0x000#12 := by
  simp [pulse, h]

/-- Without RING the waveform of a voice reads its own registers, accumulator and noise register alone. -/
theorem wave_congr_of_no_ring {s t : State} {v : Fin 3} (hreg : ∀ a, t.reg a = s.reg a) (hvar : t.variant = s.variant)
    (hacc : (t.voice v).acc = (s.voice v).acc) (hlfsr : (t.voice v).lfsr = (s.voice v).lfsr)
    (hring : s.ringBit v = false) : wave t v = wave s v := by
  have hctrl : t.ctrl v = s.ctrl v := hreg _
  have hring' : t.ringBit v = false := by rw [State.ringBit, hctrl]; exact hring
  have hsel : t.sel v = s.sel v := congrArg (BitVec.extractLsb' 4 4) hctrl
  have hpw : t.pw v = s.pw v := by simp only [State.pw, hreg]
  have htri : tri t v = tri s v := by rw [tri_of_no_ring hring', tri_of_no_ring hring, hacc]
  have hsaw : saw t v = saw s v := congrArg (BitVec.extractLsb' 12 12) hacc
  have hpulse : pulse t v = pulse s v := by rw [pulse_of_no_ring hring', pulse_of_no_ring hring, hpw, hsaw]
  have hnoise : noise t v = noise s v := by rw [noise, noise, hvar, hlfsr]
  simp only [wave, hsel, htri, hsaw, hpulse, hnoise]

/-- Settles O43: an add of 0 moves neither the accumulator nor, through bit 19, the noise register. -/
theorem zeroFrequencyFreezes : Obligations.ZeroFrequencyFreezes := by
  intro k s v hf ht hs
  obtain ⟨hacc, hlfsr⟩ := clock_oscillator_of_freq_zero k hf ht hs
  exact ⟨hacc, hlfsr, wave_congr_of_no_ring (clock_reg k s) (clock_variant k s) hacc hlfsr⟩

end Sys2Proof.Machine
end

section
/-! The envelopes (spec/43_envelope.md): the CONTROL write with its gate edges, one cycle of an envelope by its three
cases, and what follows from them for the level, the phase and the timing of an Attack. O10 and O44 to O48. -/

namespace Sys2Proof.Machine

open Sys2Proof Sys2Proof.Safety

/-! ## The CONTROL write (spec/40_orchestrator.md R108; spec/43_envelope.md R191 to R193) -/

/-- The phase after a gate edge, by the two bits. -/
theorem gateEdge_phase (resets old new : Bool) (x : Voice) :
    (gateEdge resets old new x).phase =
      if old = false ∧ new = true then .attack else if old = true ∧ new = false then .release else x.phase := by
  cases old <;> cases new <;> rfl

/-- The rate counter after a gate edge: only a rising one clears it. -/
theorem gateEdge_rc (resets old new : Bool) (x : Voice) :
    (gateEdge resets old new x).rc = if old = false ∧ new = true ∧ resets = true then 0#15 else x.rc := by
  cases old <;> cases new <;> cases resets <;> rfl

theorem writeRow_wrCtrl (v : Fin 3) (d : Byte) : writeRow (voiceAddr v 4).val d = some (wrCtrl v d) := by
  fin_cases v <;> rfl

theorem writeEffect_ctrl (v : Fin 3) : writeEffect (voiceAddr v 4).val = ctrlEffect v := by
  fin_cases v <;> rfl

/-- A CONTROL write where `alive` holds: the store, then the effect. -/
theorem exec_wrCtrl (v : Fin 3) (d : Byte) {s : State} (hs : s.alive = true) :
    exec (wrCtrl v d) s =
      .next ((ctrlEffect v (s.ctrl v) d (s.withReg (voiceAddr v 4) d)).withResult .none) := by
  rw [exec_writeRow (writeRow_wrCtrl v d), writeEffect_ctrl]
  exact busWrite_alive (voiceAddr v 4) (ctrlEffect v) d hs

/-- The written voice goes through the test hold, under TEST, and then the gate edge. -/
theorem ctrlEffect_voice_same (v : Fin 3) (old new : Byte) (s : State) :
    (ctrlEffect v old new s).voice v =
      gateEdge s.variant.gateResetsCounter (old.getLsbD 0) (new.getLsbD 0)
        (if new.getLsbD 3 then testHold s.variant.noiseModel (s.voice v) else s.voice v) :=
  (ctrlEffect_voice v old new s v).trans (if_pos rfl)

/-- Its accumulator and noise register are those of the test hold. -/
theorem ctrlEffect_voice_oscillator (v : Fin 3) (old new : Byte) (s : State) :
    ((ctrlEffect v old new s).voice v).acc = (if new.getLsbD 3 then 0#24 else (s.voice v).acc) ∧
      ((ctrlEffect v old new s).voice v).lfsr =
        (if new.getLsbD 3 then Params.noiseSeed s.variant.noiseModel else (s.voice v).lfsr) := by
  obtain ⟨hacc, hlfsr, -⟩ := gateEdge_fields s.variant.gateResetsCounter (old.getLsbD 0) (new.getLsbD 0)
    (if new.getLsbD 3 then testHold s.variant.noiseModel (s.voice v) else s.voice v)
  rw [ctrlEffect_voice_same, hacc, hlfsr]
  split <;> exact ⟨rfl, rfl⟩

/-- Its phase and rate counter are those of the gate edge. -/
theorem ctrlEffect_voice_envelope (v : Fin 3) (old new : Byte) (s : State) :
    ((ctrlEffect v old new s).voice v).phase =
        (if old.getLsbD 0 = false ∧ new.getLsbD 0 = true then .attack
        else if old.getLsbD 0 = true ∧ new.getLsbD 0 = false then .release else (s.voice v).phase) ∧
      ((ctrlEffect v old new s).voice v).rc =
        (if old.getLsbD 0 = false ∧ new.getLsbD 0 = true ∧ s.variant.gateResetsCounter = true then 0#15
        else (s.voice v).rc) := by
  rw [ctrlEffect_voice_same, gateEdge_phase, gateEdge_rc]
  cases new.getLsbD 3 <;> exact ⟨rfl, rfl⟩

/-- Settles O10: the store, the test hold and the gate edge reach different fields of the written voice. -/
theorem controlWrites : Obligations.ControlWrites := by
  intro v d s hs
  obtain ⟨hacc, hlfsr⟩ := ctrlEffect_voice_oscillator v (s.ctrl v) d (s.withReg (voiceAddr v 4) d)
  obtain ⟨hphase, hrc⟩ := ctrlEffect_voice_envelope v (s.ctrl v) d (s.withReg (voiceAddr v 4) d)
  obtain ⟨-, hlevel, hexp, -⟩ := ctrlEffect_changes v (s.ctrl v) d (s.withReg (voiceAddr v 4) d) v
  refine ⟨?_, _, exec_wrCtrl v d hs, rfl, ?_, fun b hb => ?_, fun u hu => ?_, hacc, hlfsr, hlevel, hexp, hphase, hrc⟩
  · rw [encode_writeRow_toNat (writeRow_wrCtrl v d), voiceAddr_val]
    show 256 * (7 * v.val + 4) + d.toNat = _
    omega
  · exact (State.withReg_reg ..).trans (if_pos rfl)
  · exact (State.withReg_reg ..).trans (if_neg hb)
  · rw [State.withResult_voice, ctrlEffect_voice, if_neg hu, State.withReg_voice]

theorem wrCtrl_ne_create (v : Fin 3) (d : Byte) : wrCtrl v d ≠ .create := by
  fin_cases v <;> exact nofun

theorem alive_of_exec_wrCtrl {v : Fin 3} {d : Byte} {s t : State} (h : exec (wrCtrl v d) s = .next t) :
    s.alive = true :=
  (exec_effect h).1.resolve_left (wrCtrl_ne_create v d)

/-! ## One cycle of an envelope (spec/43_envelope.md R194 to R199) -/

theorem rateEvent_of_attack {x : Voice} (floor : Nat) (h : x.phase = .attack) : rateEvent floor x = attackEvent x := by
  rw [rateEvent, h]

/-- In both falling phases an event is a fall, to the sustain level or to 0. -/
theorem rateEvent_of_fall {x : Voice} (floor : Nat) (h : x.phase ≠ .attack) :
    rateEvent floor x = fallEvent (if x.phase = .decayOrSustain then floor else 0) x := by
  unfold rateEvent
  cases hp : x.phase with
  | attack => exact absurd hp h
  | decayOrSustain => rfl
  | release => rfl

theorem sustainLevel_eq (s : State) (v : Fin 3) : sustainLevel s v = (s.reg (voiceAddr v 6)).toNat / 16 * 17 := by
  rw [sustainLevel, sustain_toNat]
  rfl

theorem rcNext_lt (rc : BitVec 15) : rcNext rc < 2 ^ 15 := by
  have := rc.isLt
  unfold rcNext
  split <;> omega

theorem envStep_of_no_event {s : State} {v : Fin 3} (h : rcNext (s.voice v).rc ≠ periodOf s v) :
    envStep s v = { s.voice v with rc := BitVec.ofNat 15 (rcNext (s.voice v).rc) } := by
  rw [← ratePeriod_eq] at h
  exact if_neg h

theorem envStep_of_event {s : State} {v : Fin 3} (h : rcNext (s.voice v).rc = periodOf s v) :
    envStep s v = rateEvent (sustainLevel s v) { s.voice v with rc := 0#15 } := by
  rw [← ratePeriod_eq] at h
  exact if_pos h

/-- A cycle before the period: the counter moves on, and the rest of the envelope stays (R195). -/
theorem cycleStep_envelope_of_no_event {s : State} {v : Fin 3} (h : rcNext (s.voice v).rc ≠ periodOf s v) :
    ((cycleStep s).voice v).rc.toNat = rcNext (s.voice v).rc ∧ ((cycleStep s).voice v).level = (s.voice v).level ∧
      ((cycleStep s).voice v).phase = (s.voice v).phase ∧ ((cycleStep s).voice v).exp = (s.voice v).exp := by
  obtain ⟨hlevel, hphase, hrc, hexp⟩ := cycleStep_envelope s v
  rw [hlevel, hphase, hrc, hexp, envStep_of_no_event h]
  exact ⟨Nat.mod_eq_of_lt (rcNext_lt _), rfl, rfl, rfl⟩

/-- A cycle that meets the period in Attack (R196). -/
theorem cycleStep_envelope_of_attack_event {s : State} {v : Fin 3} (h : rcNext (s.voice v).rc = periodOf s v)
    (hp : (s.voice v).phase = .attack) :
    ((cycleStep s).voice v).rc = 0#15 ∧ ((cycleStep s).voice v).exp = 0#5 ∧
      ((cycleStep s).voice v).level.toNat = min ((s.voice v).level.toNat + 1) 255 ∧
      ((cycleStep s).voice v).phase = if 254 ≤ (s.voice v).level.toNat then .decayOrSustain else .attack := by
  obtain ⟨hlevel, hphase, hrc, hexp⟩ := cycleStep_envelope s v
  rw [hlevel, hphase, hrc, hexp, envStep_of_event h,
    rateEvent_of_attack (x := { s.voice v with rc := 0#15 }) _ hp]
  obtain ⟨hexp, hlevel, hrc, hphase⟩ := attackEvent_fields { s.voice v with rc := 0#15 }
  exact ⟨hrc, hexp, hlevel, hp ▸ hphase⟩

/-- The level toward which voice v falls in its phase: the sustain level, and 0 in Release (R198, R199). -/
def fallFloor (s : State) (v : Fin 3) : Nat :=
  if (s.voice v).phase = .decayOrSustain then (s.reg (voiceAddr v 6)).toNat / 16 * 17 else 0

/-- A cycle that meets the period in a falling phase: the level steps down with every `ExpDiv`-th event (R197 to
R199). -/
theorem cycleStep_envelope_of_fall_event {s : State} {v : Fin 3} (h : rcNext (s.voice v).rc = periodOf s v)
    (hp : (s.voice v).phase ≠ .attack) :
    ((cycleStep s).voice v).rc = 0#15 ∧ ((cycleStep s).voice v).phase = (s.voice v).phase ∧
      (expDivisor (s.voice v).level.toNat ≤ (s.voice v).exp.toNat + 1 → ((cycleStep s).voice v).exp = 0#5 ∧
        ((cycleStep s).voice v).level.toNat =
          if fallFloor s v < (s.voice v).level.toNat then (s.voice v).level.toNat - 1 else (s.voice v).level.toNat) ∧
      ((s.voice v).exp.toNat + 1 < expDivisor (s.voice v).level.toNat →
        ((cycleStep s).voice v).exp.toNat = (s.voice v).exp.toNat + 1 ∧
          ((cycleStep s).voice v).level = (s.voice v).level) := by
  obtain ⟨hlevel, hphase, hrc, hexp⟩ := cycleStep_envelope s v
  rw [hlevel, hphase, hrc, hexp, envStep_of_event h,
    rateEvent_of_fall (x := { s.voice v with rc := 0#15 }) _ hp, ← expDiv_eq, fallFloor, ← sustainLevel_eq]
  exact fallEvent_fields _ { s.voice v with rc := 0#15 }

/-- Settles O44: before the period, an event in Attack, and an event in a falling phase are the cases of a cycle. -/
theorem envelopeCycle : Obligations.EnvelopeCycle := by
  intro s t v h
  simp only
  rw [voice_of_exec_clock1 h]
  refine ⟨cycleStep_envelope_of_no_event, fun hr => ?_⟩
  by_cases hp : (s.voice v).phase = .attack
  · obtain ⟨hrc, hattack⟩ := cycleStep_envelope_of_attack_event hr hp
    exact ⟨hrc, fun _ => hattack, fun hn => absurd hp hn⟩
  · obtain ⟨hrc, hfall⟩ := cycleStep_envelope_of_fall_event hr hp
    exact ⟨hrc, fun ha => absurd ha hp, fun _ => hfall⟩

/-! ## The level (spec/43_envelope.md R202) -/

theorem cycleStep_level_of_attack {s : State} {v : Fin 3} (hp : (s.voice v).phase = .attack) :
    (s.voice v).level.toNat ≤ ((cycleStep s).voice v).level.toNat ∧
      ((cycleStep s).voice v).level.toNat ≤ (s.voice v).level.toNat + 1 := by
  have hlt := (s.voice v).level.isLt
  by_cases hr : rcNext (s.voice v).rc = periodOf s v
  · obtain ⟨-, -, hlevel, -⟩ := cycleStep_envelope_of_attack_event hr hp
    omega
  · obtain ⟨-, hlevel, -⟩ := cycleStep_envelope_of_no_event hr
    rw [hlevel]
    omega

theorem cycleStep_level_of_fall {s : State} {v : Fin 3} (hp : (s.voice v).phase ≠ .attack) :
    ((cycleStep s).voice v).level.toNat ≤ (s.voice v).level.toNat ∧
      (s.voice v).level.toNat ≤ ((cycleStep s).voice v).level.toNat + 1 := by
  by_cases hr : rcNext (s.voice v).rc = periodOf s v
  · obtain ⟨-, -, hstep, hhold⟩ := cycleStep_envelope_of_fall_event hr hp
    by_cases hd : expDivisor (s.voice v).level.toNat ≤ (s.voice v).exp.toNat + 1
    · obtain ⟨-, hlevel⟩ := hstep hd
      rw [hlevel]
      split <;> omega
    · obtain ⟨-, hlevel⟩ := hhold (Nat.lt_of_not_le hd)
      rw [hlevel]
      omega
  · obtain ⟨-, hlevel, -⟩ := cycleStep_envelope_of_no_event hr
    rw [hlevel]
    omega

/-- CREATE and RESET leave every level at 0 (spec/10_state.md R39). -/
theorem level_of_created_or_reset {i : Instr} {s t : State} (h : exec i s = .next t) (hi : i = .create ∨ i = .reset)
    (v : Fin 3) : (t.voice v).level = 0#8 := by
  obtain rfl | rfl := hi
  · obtain rfl := Host.Outcome.next.inj h
    exact (atPowerUp_created s.createArgs).level v
  · obtain ⟨-, h⟩ := whenAlive_next h
    obtain rfl := Host.Outcome.next.inj h
    exact (atPowerUp_created { variant := s.variant, tables := s.tables }).level v

/-- Settles O45: the level over a cycle by the phase, and the commands that reach it otherwise. -/
theorem levelMonotone : Obligations.LevelMonotone := by
  intro i s t v h
  refine ⟨fun hi hp => ?_, fun hi hp => ?_, fun hi => level_of_created_or_reset h hi v,
    fun hclocks hcreate hreset hblob => ?_⟩
  · subst hi
    rw [voice_of_exec_clock1 h]
    exact cycleStep_level_of_attack hp
  · subst hi
    rw [voice_of_exec_clock1 h]
    exact cycleStep_level_of_fall hp
  · by_contra hlevel
    obtain hc | hc | hr | ⟨blob, hb⟩ := (exec_effect h).2.level_change v (.inl hlevel)
    · exact absurd hc (by simp [hclocks])
    · exact hcreate hc
    · exact hreset hr
    · exact hblob blob hb

/-! ## The phase (spec/43_envelope.md R190) -/

/-- A cycle that changes the phase ends an Attack, with the level at 255. -/
theorem cycleStep_phase_change {s : State} {v : Fin 3} (h : ((cycleStep s).voice v).phase ≠ (s.voice v).phase) :
    (s.voice v).phase = .attack ∧ ((cycleStep s).voice v).phase = .decayOrSustain ∧
      ((cycleStep s).voice v).level = 255#8 := by
  by_cases hr : rcNext (s.voice v).rc = periodOf s v
  · by_cases hp : (s.voice v).phase = .attack
    · obtain ⟨-, -, hlevel, hphase⟩ := cycleStep_envelope_of_attack_event hr hp
      by_cases hl : 254 ≤ (s.voice v).level.toNat
      · refine ⟨hp, hphase.trans (if_pos hl), BitVec.eq_of_toNat_eq (hlevel.trans ?_)⟩
        exact min_eq_right (Nat.succ_le_succ hl)
      · exact absurd (hphase.trans ((if_neg hl).trans hp.symm)) h
    · exact absurd (cycleStep_envelope_of_fall_event hr hp).2.1 h
  · exact absurd (cycleStep_envelope_of_no_event hr).2.2.1 h

/-- Only Attack is left by a cycle. -/
theorem cycleStep_phase_of_fall {s : State} {v : Fin 3} (hp : (s.voice v).phase ≠ .attack) :
    ((cycleStep s).voice v).phase = (s.voice v).phase := by
  by_contra h
  exact hp (cycleStep_phase_change h).1

theorem clock_phase_of_fall (k : Nat) {s : State} {v : Fin 3} (hp : (s.voice v).phase ≠ .attack) :
    ((clock k s).voice v).phase = (s.voice v).phase :=
  clock_induct (P := fun t => (t.voice v).phase = (s.voice v).phase)
    (fun _ h => (cycleStep_phase_of_fall (h ▸ hp)).trans h) k rfl

/-- Any number of cycles that changes the phase takes Attack to DecayOrSustain. -/
theorem clock_phase_change {k : Nat} {s : State} {v : Fin 3} (h : ((clock k s).voice v).phase ≠ (s.voice v).phase) :
    (s.voice v).phase = .attack ∧ ((clock k s).voice v).phase = .decayOrSustain := by
  induction k generalizing s with
  | zero => exact absurd rfl h
  | succ k ih =>
    rw [clock_succ] at h ⊢
    by_cases hstep : ((cycleStep s).voice v).phase = (s.voice v).phase
    · rw [← hstep] at h ⊢
      exact ih h
    · obtain ⟨hp, hnext, -⟩ := cycleStep_phase_change hstep
      exact ⟨hp, (clock_phase_of_fall k (by simp [hnext])).trans hnext⟩

/-- A CONTROL write that changes a phase is one of that voice, with a gate edge: a rising one starts Attack, a falling
one Release. -/
theorem ctrlEffect_phase_change {u v : Fin 3} {old new : Byte} {s : State}
    (h : ((ctrlEffect u old new s).voice v).phase ≠ (s.voice v).phase) :
    v = u ∧
      ((old.getLsbD 0 = false ∧ new.getLsbD 0 = true ∧ ((ctrlEffect u old new s).voice v).phase = .attack) ∨
        (old.getLsbD 0 = true ∧ new.getLsbD 0 = false ∧ ((ctrlEffect u old new s).voice v).phase = .release)) := by
  obtain ⟨-, -, -, hedge, -⟩ := ctrlEffect_changes u old new s v
  obtain rfl := (hedge h).1
  obtain ⟨hphase, -⟩ := ctrlEffect_voice_envelope v old new s
  refine ⟨rfl, ?_⟩
  split at hphase
  case isTrue hrise => exact .inl ⟨hrise.1, hrise.2, hphase⟩
  case isFalse =>
    split at hphase
    case isTrue hfall => exact .inr ⟨hfall.1, hfall.2, hphase⟩
    case isFalse => exact absurd hphase h

/-- Settles O46: of the eleven effects of a command, the transitions of the five that reach a phase. -/
theorem phaseTransitions : Obligations.PhaseTransitions := by
  intro i s t v h hne
  obtain ⟨-, he⟩ := exec_effect h
  cases he with
  | created hi => exact .inl ⟨.inl hi, (atPowerUp_created s.createArgs).phase v⟩
  | afterReset hi =>
    exact .inl ⟨.inr hi, (atPowerUp_created { variant := s.variant, tables := s.tables }).phase v⟩
  | restored blob hi => exact .inr (.inl ⟨blob, hi⟩)
  | control u d hi =>
    obtain ⟨rfl, hrise | hfall⟩ :=
      ctrlEffect_phase_change (old := s.ctrl u) (s := s.withReg (voiceAddr u 4) d) hne
    · exact .inr (.inr (.inl ⟨d, hi, hrise⟩))
    · exact .inr (.inr (.inr (.inl ⟨d, hi, hfall⟩)))
  | clocked k so sp buf r hi =>
    obtain ⟨hbefore, hafter⟩ := clock_phase_change (k := k) hne
    refine .inr (.inr (.inr (.inr ⟨hi, hbefore, hafter, fun hone => ?_⟩)))
    subst hone
    rw [voice_of_exec_clock1 h] at hne ⊢
    exact (cycleStep_phase_change hne).2.2
  | store | answer | released | latched | committed | adjusted => exact absurd rfl hne

/-! ## Silence (spec/43_envelope.md R203) -/

/-- A voice that makes no sound and stays so until its gate rises. -/
def Silent (x : Voice) : Prop := x.phase = .release ∧ x.level = 0#8

theorem Silent.cycleStep {s : State} {v : Fin 3} (h : Silent (s.voice v)) : Silent ((cycleStep s).voice v) := by
  obtain ⟨hphase, hlevel⟩ := h
  have hp : (s.voice v).phase ≠ .attack := by simp [hphase]
  have hle := (cycleStep_level_of_fall hp).1
  rw [hlevel] at hle
  exact ⟨(cycleStep_phase_of_fall hp).trans hphase, BitVec.eq_of_toNat_eq (Nat.eq_zero_of_le_zero hle)⟩

theorem Silent.clock (k : Nat) {s : State} {v : Fin 3} (h : Silent (s.voice v)) : Silent ((clock k s).voice v) :=
  clock_induct (P := fun s => Silent (s.voice v)) (fun _ => Silent.cycleStep) k h

/-- A CONTROL write without a rising gate of a silent voice leaves it silent. -/
theorem Silent.ctrlEffect {u v : Fin 3} {old new : Byte} {s : State} (h : Silent (s.voice v))
    (hgate : v = u → old.getLsbD 0 = false → new.getLsbD 0 = false) : Silent ((ctrlEffect u old new s).voice v) := by
  obtain ⟨hphase, hlevel⟩ := h
  obtain ⟨-, hkept, -⟩ := ctrlEffect_changes u old new s v
  refine ⟨?_, hkept.trans hlevel⟩
  by_cases hp : ((Machine.ctrlEffect u old new s).voice v).phase = (s.voice v).phase
  · exact hp.trans hphase
  · obtain ⟨huv, ⟨hold, hnew, -⟩ | ⟨-, -, hrelease⟩⟩ := ctrlEffect_phase_change hp
    · exact absurd (hgate huv hold) (by simp [hnew])
    · exact hrelease

theorem silent_created (args : Config.CreateArgs) (v : Fin 3) : Silent ((State.created args).voice v) :=
  ⟨(atPowerUp_created args).phase v, (atPowerUp_created args).level v⟩

/-- Settles O47: each of the eleven effects of a command keeps a silent voice silent, but for the two exceptions. -/
theorem terminalSilence : Obligations.TerminalSilence := by
  intro i s t v hphase hlevel h hblob hgate
  have hs : Silent (s.voice v) := ⟨hphase, hlevel⟩
  show Silent (t.voice v)
  obtain ⟨-, he⟩ := exec_effect h
  cases he with
  | created => exact silent_created s.createArgs v
  | afterReset => exact silent_created { variant := s.variant, tables := s.tables } v
  | restored blob hi => exact absurd hi (hblob blob)
  | control u d hi =>
    exact Silent.ctrlEffect (old := s.ctrl u) (s := s.withReg (voiceAddr u 4) d) hs
      fun huv => by subst huv; exact hgate d hi
  | clocked k => exact hs.clock k
  | store | answer | released | latched | committed | adjusted => exact hs

/-! ## The timing of an Attack (spec/43_envelope.md R193 to R196, R204) -/

/-- A voice c cycles after an Attack of period p began at level `start`, with the rate counter at 0. -/
structure AttackAt (p start c : Nat) (x : Voice) : Prop where
  level : x.level.toNat = start + c / p
  rc    : x.rc.toNat = c % p
  phase : x.phase = if start + c / p < 255 then .attack else .decayOrSustain

/-- The period that a voice in Attack counts to. -/
theorem periodOf_of_attack {s : State} {v : Fin 3} (hp : (s.voice v).phase = .attack) :
    periodOf s v = ratePeriods.getD ((s.reg (voiceAddr v 5)).toNat / 16) 0 := by
  rw [periodOf, hp]

theorem div_mod_succ_of_full {c p : Nat} (h : c % p + 1 = p) : (c + 1) / p = c / p + 1 ∧ (c + 1) % p = 0 := by
  have hc := Nat.mod_add_div c p
  exact (Nat.div_mod_unique (by omega)).mpr ⟨by rw [Nat.mul_add_one]; omega, by omega⟩

theorem div_mod_succ_of_room {c p : Nat} (h : c % p + 1 < p) : (c + 1) / p = c / p ∧ (c + 1) % p = c % p + 1 := by
  have hc := Nat.mod_add_div c p
  exact (Nat.div_mod_unique (by omega)).mpr ⟨by omega, h⟩

/-- One cycle of an Attack: the counter meets the period exactly in the cycles whose number p divides. -/
theorem AttackAt.cycleStep {s : State} {v : Fin 3} {p start c : Nat} (h : AttackAt p start c (s.voice v))
    (hp : ratePeriods.getD ((s.reg (voiceAddr v 5)).toNat / 16) 0 = p) (hc : start + c / p < 255) :
    AttackAt p start (c + 1) ((cycleStep s).voice v) := by
  obtain ⟨hlevel, hrc, hphase⟩ := h
  rw [if_pos hc] at hphase
  have hperiod : periodOf s v = p := (periodOf_of_attack hphase).trans hp
  obtain ⟨hlow, hhigh⟩ := periodOf_bounds s v
  have hlt : c % p < p := Nat.mod_lt c (by omega)
  have hnext : rcNext (s.voice v).rc = c % p + 1 := by rw [rcNext, hrc, if_neg (by omega)]
  by_cases hr : c % p + 1 = p
  · obtain ⟨hrc', -, hlevel', hphase'⟩ :=
      cycleStep_envelope_of_attack_event (hnext.trans (hr.trans hperiod.symm)) hphase
    obtain ⟨hdiv, hmod⟩ := div_mod_succ_of_full hr
    have hend : 254 ≤ start + c / p ↔ ¬start + (c / p + 1) < 255 := by omega
    refine ⟨?_, ?_, ?_⟩
    · rw [hlevel', hlevel, hdiv]
      exact min_eq_left hc
    · rw [hrc', hmod]
      rfl
    · rw [hphase', hlevel, hdiv]
      simp only [hend, ite_not]
  · obtain ⟨hrc', hlevel', hphase', -⟩ :=
      cycleStep_envelope_of_no_event (s := s) (v := v) (by rw [hnext, hperiod]; exact hr)
    obtain ⟨hdiv, hmod⟩ := div_mod_succ_of_room (Nat.lt_of_le_of_ne hlt hr)
    exact ⟨by rw [hlevel', hlevel, hdiv], by rw [hrc', hnext, hmod], by rw [hphase', hphase, hdiv, if_pos hc]⟩

/-- An Attack lasts as many periods as its levels up to 255. -/
theorem attack_lasts_iff {p start c : Nat} (hp : 0 < p) : c < p * (255 - start) ↔ start + c / p < 255 := by
  rw [Nat.mul_comm, ← Nat.div_lt_iff_lt_mul hp, Nat.lt_sub_iff_add_lt']

/-- An Attack of period p, cycle by cycle, until it reaches level 255. -/
theorem AttackAt.clock {s : State} {v : Fin 3} {p start : Nat} (h : AttackAt p start 0 (s.voice v))
    (hp : ratePeriods.getD ((s.reg (voiceAddr v 5)).toNat / 16) 0 = p) (hpos : 0 < p) {c : Nat}
    (hc : c ≤ p * (255 - start)) : AttackAt p start c ((clock c s).voice v) := by
  induction c with
  | zero => exact h
  | succ c ih =>
    rw [clock_succ_last]
    exact (ih (Nat.le_of_lt hc)).cycleStep (by rw [clock_reg]; exact hp) ((attack_lasts_iff hpos).mp hc)

/-- The period of an Attack is not 0, whatever the AD register holds (R194). -/
theorem attackPeriod_pos (ad : Byte) : 0 < ratePeriods.getD (ad.toNat / 16) 0 := by
  have all : ∀ i < 16, 0 < ratePeriods.getD i 0 := by decide
  exact all _ (by omega)

/-- A gate-on write begins an Attack at the level of the voice, with the rate counter at 0 under
`GATE_RESETS_COUNTER` (R193). -/
theorem attackAt_of_gate_on {s t : State} {v : Fin 3} {d : Byte} (hresets : s.variant.gateResetsCounter = true)
    (hold : s.gate v = false) (hnew : d.getLsbD 0 = true) (hlevel : (s.voice v).level.toNat < 255)
    (h : exec (wrCtrl v d) s = .next t) :
    AttackAt (ratePeriods.getD ((s.reg (voiceAddr v 5)).toNat / 16) 0) (s.voice v).level.toNat 0 (t.voice v) ∧
      t.reg (voiceAddr v 5) = s.reg (voiceAddr v 5) := by
  obtain ⟨-, t', ht, -, -, hregs, -, -, -, hkept, -, hphase, hrc⟩ := controlWrites v d s (alive_of_exec_wrCtrl h)
  obtain rfl := Host.Outcome.next.inj (ht.symm.trans h)
  rw [if_pos ⟨hold, hnew⟩] at hphase
  rw [if_pos ⟨hold, hnew, hresets⟩] at hrc
  refine ⟨⟨?_, ?_, ?_⟩, hregs _ fun e => absurd (voiceAddr_inj.mp e).2 (by decide)⟩
  · rw [hkept, Nat.zero_div, Nat.add_zero]
  · rw [hrc, Nat.zero_mod]
    rfl
  · rw [hphase, Nat.zero_div, Nat.add_zero, if_pos hlevel]

/-- Settles O48: the gate-on write begins an Attack, which is followed cycle by cycle. -/
theorem attackTiming : Obligations.AttackTiming := by
  intro s t v d hresets hold hnew hlevel h p c hc
  have hpos : 0 < p := attackPeriod_pos _
  obtain ⟨hbegin, had⟩ := attackAt_of_gate_on hresets hold hnew hlevel h
  have hat := hbegin.clock (had ▸ rfl) hpos hc
  simp only [attack_lasts_iff hpos]
  exact ⟨hat.level, hat.phase⟩

end Sys2Proof.Machine
end

section
/-! What the chip model reaches (spec/44_filter.md R230): O53. -/

namespace Sys2Proof.Safety

open Sys2Proof Sys2Proof.Machine

/-! ## The relation over the updates of the commands -/

/-- The parts of the state in which `SameButFiltered` lets two states differ. -/
structure Filtered where
  model     : ChipModel
  bp        : S32
  lp        : S32
  extHp     : S32
  extLp     : S32
  extOut    : S32
  ring      : Ring
  sprev     : Sample
  callerBuf : List Sample
  result    : Result

/-- The state with other such parts. -/
def withFiltered (d : Filtered) (s : State) : State :=
  { s with
    model := d.model
    bp := d.bp
    lp := d.lp
    extHp := d.extHp
    extLp := d.extLp
    extOut := d.extOut
    ring := d.ring
    sprev := d.sprev
    callerBuf := d.callerBuf
    result := d.result }

theorem sameButFiltered_withFiltered (d : Filtered) (s : State) : SameButFiltered s (withFiltered d s) := rfl

/-- The relation holds of no other states. -/
theorem SameButFiltered.exists_eq_withFiltered {s s' : State} (h : SameButFiltered s s') :
    ∃ d, s' = withFiltered d s :=
  ⟨⟨s'.model, s'.bp, s'.lp, s'.extHp, s'.extLp, s'.extOut, s'.ring, s'.sprev, s'.callerBuf, s'.result⟩, h⟩

theorem SameButFiltered.with_buffer_result {s s' : State} (h : SameButFiltered s s') (b b' : List Sample)
    (r r' : Result) :
    SameButFiltered { s with callerBuf := b, result := r } { s' with callerBuf := b', result := r' } := by
  obtain ⟨d, rfl⟩ := h.exists_eq_withFiltered
  rfl

/-! ## The relation over outcomes -/

/-- Where the first outcome is a next state, so is the second, the two differ only in what the filter reaches, and, if
`p`, the answers agree. -/
def FilteredNext (p : Prop) (o o' : Outcome) : Prop :=
  ∀ t, o = .next t → ∃ t', o' = .next t' ∧ SameButFiltered t t' ∧ (p → t'.result = t.result)

theorem filteredNext_refused (p : Prop) (r : Refusal) (o : Outcome) : FilteredNext p (.refused r) o :=
  fun _ h => nomatch h

theorem filteredNext_require {p : Prop} {o o' : Outcome} (ok : Bool) (r : Refusal) (ho : FilteredNext p o o') :
    FilteredNext p (require ok r o) (require ok r o') := by
  cases ok with
  | true => exact ho
  | false => exact filteredNext_refused p r _

/-- The two answers may differ only where `p` fails. -/
theorem SameButFiltered.done_of {p : Prop} {u u' : State} (h : SameButFiltered u u') {r r' : Result}
    (hr : p → r' = r) : FilteredNext p (done r u) (done r' u') := by
  rintro _ ⟨⟩
  exact ⟨_, rfl, h.with_buffer_result u.callerBuf u'.callerBuf r r', hr⟩

theorem SameButFiltered.done {p : Prop} {u u' : State} (h : SameButFiltered u u') (r : Result) :
    FilteredNext p (done r u) (done r u') :=
  h.done_of fun _ => rfl

section Commands

variable {p : Prop} {s : State} {d : Filtered}

theorem filteredNext_whenAlive {o o' : Outcome} (ho : FilteredNext p o o') :
    FilteredNext p (whenAlive s o) (whenAlive (withFiltered d s) o') := by
  rcases Bool.eq_false_or_eq_true s.alive with hs | hs
  · rw [whenAlive_alive hs, whenAlive_alive (s := withFiltered d s) hs]
    exact ho
  · rw [whenAlive_dead hs]
    exact filteredNext_refused p _ _

/-- A command that updates the state, under the `alive` check. -/
theorem filteredNext_update (r : Result) {u u' : State} (hu : SameButFiltered u u') :
    FilteredNext p (whenAlive s (done r u)) (whenAlive (withFiltered d s) (done r u')) :=
  filteredNext_whenAlive (hu.done r)

/-- A WRITE whose effect keeps the relation. -/
theorem filteredNext_busWrite {a : Nat} {effect : Byte → Byte → State → State} {x : Byte}
    (heffect : ∀ a : Fin 29, SameButFiltered (effect (s.reg a) x (s.withReg a x))
      (effect (s.reg a) x ((withFiltered d s).withReg a x))) :
    FilteredNext p (busWrite a effect x s) (busWrite a effect x (withFiltered d s)) := by
  refine filteredNext_whenAlive ?_
  by_cases ha : a < 29
  · rw [dif_pos ha, dif_pos ha]
    exact (heffect ⟨a, ha⟩).done .none
  · rw [dif_neg ha]
    exact filteredNext_refused p _ _

/-- A READ of a value that the filter does not reach. -/
theorem filteredNext_busRead {a : Nat} {value : Fin 29 → State → Byte}
    (hvalue : ∀ a : Fin 29, value a (withFiltered d s) = value a s) :
    FilteredNext p (busRead a value s) (busRead a value (withFiltered d s)) := by
  refine filteredNext_whenAlive ?_
  by_cases ha : a < 29
  · rw [dif_pos ha, dif_pos ha, hvalue ⟨a, ha⟩]
    exact (sameButFiltered_withFiltered d s).done _
  · rw [dif_neg ha]
    exact filteredNext_refused p _ _

theorem filteredNext_setChipModel (m : Int) :
    FilteredNext p (execSetChipModel m s) (execSetChipModel m (withFiltered d s)) := by
  refine filteredNext_whenAlive ?_
  cases modelOfOperand m with
  | none => exact filteredNext_refused p _ _
  | some c => exact SameButFiltered.done (by rfl) .none

theorem filteredNext_setSamplingParameters (fc : Rat) (m : Int) (fs pass scale : Rat) :
    FilteredNext p (execSetSamplingParameters fc m fs pass scale s)
      (execSetSamplingParameters fc m fs pass scale (withFiltered d s)) := by
  refine filteredNext_whenAlive ?_
  cases samplingValid fc m fs pass scale with
  | true => exact SameButFiltered.done (by rfl) (.flag true)
  | false => exact (sameButFiltered_withFiltered d s).done (.flag false)

/-- A run writes other samples to the buffer, but as many of them in as many cycles. -/
theorem filteredNext_clockSamplesRun (dt : Nat) (buf : List Sample) (n il : Nat) :
    FilteredNext p (clockSamplesRun dt buf n il s) (clockSamplesRun dt buf n il (withFiltered d s)) := by
  obtain ⟨hstate, hlength, hremaining⟩ := (sameButFiltered_withFiltered d s).run s.method n dt
  have hmethod : (withFiltered d s).method = s.method := rfl
  rw [clockSamplesRun_run, clockSamplesRun_run, hmethod, hlength, hremaining]
  rintro _ ⟨⟩
  exact ⟨_, rfl, hstate.with_buffer_result _ _ _ _, fun _ => rfl⟩

end Commands

/-- The commands whose answer the filter reaches. -/
def Reports (i : Instr) : Prop := i = .output ∨ (∃ b, i = .outputBits b) ∨ i = .readState

/-- Every command keeps the relation, and only those that report answer differently: a register write or read looks at
nothing that the filter reaches, a run of cycles keeps the relation and its counts, and every other update acts on the
two states alike. -/
theorem filteredNext_exec (i : Instr) (s : State) (d : Filtered) :
    FilteredNext (¬Reports i) (exec i s) (exec i (withFiltered d s)) := by
  have same := sameButFiltered_withFiltered d s
  cases i with
  | wrFreqLo1 x | wrFreqHi1 x | wrPwLo1 x | wrPwHi1 x | wrCtrl1 x | wrAd1 x | wrSr1 x
  | wrFreqLo2 x | wrFreqHi2 x | wrPwLo2 x | wrPwHi2 x | wrCtrl2 x | wrAd2 x | wrSr2 x
  | wrFreqLo3 x | wrFreqHi3 x | wrPwLo3 x | wrPwHi3 x | wrCtrl3 x | wrAd3 x | wrSr3 x
  | wrFcLo x | wrFcHi x | wrResFilt x | wrModeVol x | wrPotX x | wrPotY x | wrOsc3 x | wrEnv3 x =>
    exact filteredNext_busWrite fun _ => rfl
  | rdFreqLo1 | rdFreqHi1 | rdPwLo1 | rdPwHi1 | rdCtrl1 | rdAd1 | rdSr1
  | rdFreqLo2 | rdFreqHi2 | rdPwLo2 | rdPwHi2 | rdCtrl2 | rdAd2 | rdSr2
  | rdFreqLo3 | rdFreqHi3 | rdPwLo3 | rdPwHi3 | rdCtrl3 | rdAd3 | rdSr3
  | rdFcLo | rdFcHi | rdResFilt | rdModeVol | rdPotX | rdPotY | rdOsc3 | rdEnv3 =>
    exact filteredNext_busRead fun _ => rfl
  | create => exact SameButFiltered.done (by rfl) .none
  | release | reset | enableFilter _ | enableExtFilter _ => exact filteredNext_update .none rfl
  | setChipModel m => exact filteredNext_setChipModel m
  | setSamplingParameters fc m fs pass scale => exact filteredNext_setSamplingParameters fc m fs pass scale
  | adjustSamplingFrequency _ | input _ | writeState _ =>
    exact filteredNext_whenAlive (filteredNext_require _ _ (SameButFiltered.done (by rfl) .none))
  | clock1 => exact filteredNext_update .none (same.clock 1)
  | clockN n => exact filteredNext_whenAlive (filteredNext_require _ _ ((same.clock n.toNat).done .none))
  | clockSamples dt buf n il =>
    exact filteredNext_whenAlive (filteredNext_require _ _ (filteredNext_require _ _ (filteredNext_require _ _
      (filteredNext_clockSamplesRun _ _ _ _))))
  | output => exact filteredNext_whenAlive (same.done_of fun hi => absurd (.inl rfl) hi)
  | outputBits b =>
    exact filteredNext_whenAlive (filteredNext_require _ _ (same.done_of fun hi => absurd (.inr (.inl ⟨b, rfl⟩)) hi))
  | readState => exact filteredNext_whenAlive (same.done_of fun hi => absurd (.inr (.inr rfl)) hi)

/-- Settles O53: the relation is one that every command keeps, and three commands report what it lets differ. -/
theorem modelReachesOnlyFilter : Obligations.ModelReachesOnlyFilter := by
  intro i s s' t h ht
  obtain ⟨d, rfl⟩ := h.exists_eq_withFiltered
  obtain ⟨t', ht', hsame, hanswer⟩ := filteredNext_exec i s d t ht
  refine ⟨t', ht', hsame, fun hout hbits hread => hanswer ?_⟩
  rintro (hi | ⟨b, hi⟩ | hi)
  · exact hout hi
  · exact hbits b hi
  · exact hread hi

end Sys2Proof.Safety
end

section
/-! The filter's inputs, its cycle and the mixer (spec/44_filter.md): O50 and O51. -/

namespace Sys2Proof.Machine

open Sys2Proof Sys2Proof.Safety

/-! ## The inputs (spec/44_filter.md R220 to R222) -/

theorem voiceOut_eq (s : State) (v : Fin 3) :
    voiceOut s v = ((wave s v).toNat - 0x800 : Int) * (s.voice v).level.toNat := rfl

/-- A wave sample lies from 0x800 below the zero line to 0x7FF above it, and a level is at most 255. -/
theorem voiceOut_bounds (s : State) (v : Fin 3) : -522240 ≤ voiceOut s v ∧ voiceOut s v ≤ 521985 := by
  have hw := (wave s v).isLt
  have hl := (s.voice v).level.isLt
  rw [voiceOut_eq]
  generalize (wave s v).toNat = w at hw ⊢
  generalize (s.voice v).level.toNat = l at hl ⊢
  have hle : (w : Int) * l ≤ 4095 * l := Int.mul_le_mul_of_nonneg_right (by omega) (by omega)
  have hge : 0 ≤ (w : Int) * l := by positivity
  rw [Int.sub_mul]
  omega

theorem voiceIn_eq (s : State) (v : Fin 3) : voiceIn s v = voiceOut s v / 128 := asr_eq _ 7

theorem voiceIn_bounds (s : State) (v : Fin 3) : -4080 ≤ voiceIn s v ∧ voiceIn s v ≤ 4078 := by
  have := voiceOut_bounds s v
  rw [voiceIn_eq]
  omega

theorem filterIn_two (s : State) :
    filterIn s 2 = if s.off3 = true ∧ s.filt.getLsbD 2 = false then 0 else voiceIn s 2 := by
  show (if s.off3 && !s.filt[2] then 0 else voiceIn s 2) = _
  rw [← BitVec.getLsbD_eq_getElem]
  simp only [Bool.and_eq_true, Bool.not_eq_true']

theorem filterIn_three (s : State) : filterIn s 3 = s.extIn.toInt * 16 / 128 := asr_eq _ 7

theorem filterIn_voice_bounds (s : State) {k : Fin 4} (hk : k ≠ 3) : -4080 ≤ filterIn s k ∧ filterIn s k ≤ 4078 := by
  obtain rfl | rfl | rfl : k = 0 ∨ k = 1 ∨ k = 2 := by omega
  · exact voiceIn_bounds s 0
  · exact voiceIn_bounds s 1
  · rw [filterIn_two]
    split
    · decide
    · exact voiceIn_bounds s 2

theorem filterIn_three_bounds (s : State) : -4096 ≤ filterIn s 3 ∧ filterIn s 3 ≤ 4095 := by
  have := s.extIn.toInt_lt
  have := s.extIn.le_toInt
  rw [filterIn_three]
  omega

/-- Settles O50: the voice outputs within their range, and each input by its rule and within its own. -/
theorem filterInputs : Obligations.FilterInputs := fun s =>
  ⟨fun v => ⟨voiceOut_eq s v, voiceOut_bounds s v⟩, voiceIn_eq s 0, voiceIn_eq s 1,
    voiceIn_eq s 2 ▸ filterIn_two s, filterIn_three s, fun _ hk => filterIn_voice_bounds s hk,
    filterIn_three_bounds s⟩

/-! ## Stages 1 to 3 leave what the filter reads beside the voices -/

@[simp] theorem voiceStages_bp (s : State) : (voiceStages s).bp = s.bp := by rw [voiceStages_frame]

@[simp] theorem voiceStages_lp (s : State) : (voiceStages s).lp = s.lp := by rw [voiceStages_frame]

@[simp] theorem voiceStages_filterEn (s : State) : (voiceStages s).filterEn = s.filterEn := by rw [voiceStages_frame]

@[simp] theorem voiceStages_model (s : State) : (voiceStages s).model = s.model := by rw [voiceStages_frame]

@[simp] theorem voiceStages_tables (s : State) : (voiceStages s).tables = s.tables := by rw [voiceStages_frame]

@[simp] theorem voiceStages_regs (s : State) : (voiceStages s).regs = s.regs := by rw [voiceStages_frame]

@[simp] theorem voiceStages_reg (s : State) (a : Fin 29) : (voiceStages s).reg a = s.reg a := by
  simp only [State.reg, voiceStages_regs]

@[simp] theorem voiceStages_fc (s : State) : (voiceStages s).fc = s.fc := by
  simp only [State.fc, voiceStages_reg]

@[simp] theorem voiceStages_res (s : State) : (voiceStages s).res = s.res := by
  simp only [State.res, voiceStages_reg]

@[simp] theorem voiceStages_vol (s : State) : (voiceStages s).vol = s.vol := by
  simp only [State.vol, voiceStages_reg]

@[simp] theorem voiceStages_lpOn (s : State) : (voiceStages s).lpOn = s.lpOn := by
  simp only [State.lpOn, voiceStages_reg]

@[simp] theorem voiceStages_bpOn (s : State) : (voiceStages s).bpOn = s.bpOn := by
  simp only [State.bpOn, voiceStages_reg]

@[simp] theorem voiceStages_hpOn (s : State) : (voiceStages s).hpOn = s.hpOn := by
  simp only [State.hpOn, voiceStages_reg]

@[simp] theorem voiceStages_cutoffCoeff (s : State) : cutoffCoeff (voiceStages s) = cutoffCoeff s := by
  simp only [cutoffCoeff, voiceStages_tables, voiceStages_model, voiceStages_fc]

/-! ## The filter stage in integers, by its enable (spec/44_filter.md R224 to R229) -/

/-- The entry of the tables by the model, and the clamp (R225). -/
theorem cutoffCoeff_eq (s : State) : cutoffCoeff s = min (w0Entry s.tables s.model s.fc) 105414 := rfl

theorem highPass_toInt (s : State) :
    (highPass s).toInt =
      wrap32 (routedSum s - s.lp.toInt - s.bp.toInt * resonances.getD s.res.toNat 0 / 2 ^ 10) := by
  rw [highPass, s32_toInt_wrap, filteredSum_eq, asr_eq, q1024_eq]

theorem bandPass_toInt (w : Nat) (s : State) :
    (bandPass w s).toInt = wrap32 (s.bp.toInt + w * (highPass s).toInt / 2 ^ 20) := by
  rw [bandPass, s32_toInt_wrap, asr_eq]

theorem lowPass_toInt (w : Nat) (s : State) :
    (lowPass w s).toInt = wrap32 (s.lp.toInt + w * s.bp.toInt / 2 ^ 20) := by
  rw [lowPass, s32_toInt_wrap, asr_eq]

theorem filterStep_mix_of_on {s : State} (h : s.filterEn = true) :
    (filterStep s).2.toInt = wrap32 ((unroutedSum s + tapSum (cutoffCoeff s) s) * s.vol.toNat) := by
  rw [filterStep, if_pos h, ← drySum_eq]
  exact s32_toInt_wrap _

theorem filterStep_mix_of_off {s : State} (h : s.filterEn = false) :
    (filterStep s).2.toInt =
      wrap32 ((filterIn s 0 + filterIn s 1 + filterIn s 2 + filterIn s 3) * s.vol.toNat) := by
  rw [filterStep, if_neg (Bool.eq_false_iff.mp h)]
  exact s32_toInt_wrap _

/-! ## One cycle -/

/-- The sums of a cycle are those of the state after it: the voices do not move in stages 4 to 6. -/
theorem cycleStep_routedSum (s : State) : routedSum (cycleStep s) = routedSum (voiceStages s) := by
  simp only [routedSum, cycleStep_filt, cycleStep_filterIn]

theorem cycleStep_unroutedSum (s : State) : unroutedSum (cycleStep s) = unroutedSum (voiceStages s) := by
  simp only [unroutedSum, cycleStep_filt, cycleStep_filterIn]

/-- The high-pass of a cycle reads the old integrators (R224). -/
theorem cycleHp_cycleStep (s : State) : cycleHp s (cycleStep s) = (highPass (voiceStages s)).toInt := by
  rw [highPass_toInt, cycleHp, cycleStep_routedSum, voiceStages_lp, voiceStages_bp, voiceStages_res]

/-- The band-pass integrator of an enabled cycle. -/
theorem cycleStep_bp_toInt {s : State} (h : s.filterEn = true) :
    (cycleStep s).bp.toInt = wrap32 (s.bp.toInt + cutoffCoeff s * cycleHp s (cycleStep s) / 2 ^ 20) := by
  rw [(cycleStep_filter_on h).1, bandPass_toInt, cycleHp_cycleStep, voiceStages_bp]

/-- The low-pass integrator of an enabled cycle, from the old band-pass. -/
theorem cycleStep_lp_toInt {s : State} (h : s.filterEn = true) :
    (cycleStep s).lp.toInt = wrap32 (s.lp.toInt + cutoffCoeff s * s.bp.toInt / 2 ^ 20) := by
  rw [(cycleStep_filter_on h).2, lowPass_toInt, voiceStages_lp, voiceStages_bp]

/-- The taps of an enabled cycle are taken after the update (R227). -/
theorem cycleTaps_cycleStep {s : State} (h : s.filterEn = true) :
    cycleTaps s (cycleStep s) = tapSum (cutoffCoeff s) (voiceStages s) := by
  obtain ⟨hbp, hlp⟩ := cycleStep_filter_on h
  rw [cycleTaps, tapSum, hbp, hlp, cycleHp_cycleStep, voiceStages_lpOn, voiceStages_bpOn, voiceStages_hpOn]

/-- What stage 4 of a cycle gives stage 5 is the mixer's value (R228, R229). -/
theorem filterStep_mix (s : State) : (filterStep (voiceStages s)).2.toInt = cycleMix s (cycleStep s) := by
  rcases Bool.eq_false_or_eq_true s.filterEn with h | h
  · rw [filterStep_mix_of_on ((voiceStages_filterEn s).trans h), cycleMix, if_pos h, cycleStep_unroutedSum,
      cycleTaps_cycleStep h, voiceStages_cutoffCoeff, voiceStages_vol]
  · rw [filterStep_mix_of_off ((voiceStages_filterEn s).trans h), cycleMix, if_neg (Bool.eq_false_iff.mp h),
      voiceStages_vol]
    simp only [cycleStep_filterIn]

/-- At volume 0 the mixer is silent. -/
theorem cycleMix_of_vol_zero {s : State} (t : State) (h : s.vol = 0#4) : cycleMix s t = 0 := by
  have hvol : (s.vol.toNat : Int) = 0 := by rw [h]; rfl
  rw [cycleMix, hvol, Int.mul_zero, Int.mul_zero, ite_self]
  rfl

/-- Settles O51: a CLOCK1 is one cycle up to the result, which enters none of the quantities; the integrators by the
enable, and the mixer's value passed through the disabled external filter. -/
theorem filterCycle : Obligations.FilterCycle := by
  intro s t h entry w
  obtain ⟨-, h⟩ := whenAlive_next h
  obtain rfl := Host.Outcome.next.inj h
  have hentry : entry = w0Entry s.tables s.model s.fc := rfl
  have hw : w = cutoffCoeff s := by rw [cutoffCoeff_eq, ← hentry]
  rw [hw]
  refine ⟨fun hf => ⟨cycleStep_bp_toInt hf, cycleStep_lp_toInt hf⟩, cycleStep_filter_off, fun he => ?_,
    cycleMix_of_vol_zero _⟩
  exact (congrArg BitVec.toInt (cycleStep_ext_off he).2.2).trans (filterStep_mix s)

end Sys2Proof.Machine
end

section
/-! One cycle of the external filter (spec/45_external_filter.md): O52. -/

namespace Sys2Proof.Machine

open Sys2Proof Sys2Proof.Safety

/-! ## Stages 1 to 3 leave the external filter's accumulators -/

@[simp] theorem voiceStages_extHp (s : State) : (voiceStages s).extHp = s.extHp := by rw [voiceStages_frame]

@[simp] theorem voiceStages_extLp (s : State) : (voiceStages s).extLp = s.extLp := by rw [voiceStages_frame]

/-! ## The enabled filter in integers (spec/45_external_filter.md R241) -/

theorem extHighOut_toInt (mix : S32) (s : State) :
    (extHighOut mix s).toInt = wrap32 (mix.toInt - s.extHp.toInt) := s32_toInt_wrap _

theorem extEnabled_extHp_toInt (mix : S32) (s : State) :
    (extEnabled mix s).extHp.toInt = wrap32 (s.extHp.toInt + 105 * (extHighOut mix s).toInt / 2 ^ 20) := by
  rw [extEnabled, s32_toInt_wrap, asr_eq, Params.wHp]

/-- `W_LP >> 8`, the low-pass coefficient at the scale of its 12-bit shift. -/
theorem asr_wLp : asr Params.wLp 8 = 409 := by decide

theorem extEnabled_extLp_toInt (mix : S32) (s : State) :
    (extEnabled mix s).extLp.toInt =
      wrap32 (s.extLp.toInt + 409 * ((extHighOut mix s).toInt - s.extLp.toInt) / 2 ^ 12) := by
  rw [extEnabled, s32_toInt_wrap, asr_wLp, asr_eq]

/-! ## One cycle -/

/-- The high-pass output of a cycle: the mixer's value less the old accumulator. -/
theorem extHighOut_voiceStages (s : State) :
    (extHighOut (filterStep (voiceStages s)).2 (voiceStages s)).toInt =
      wrap32 (cycleMix s (cycleStep s) - s.extHp.toInt) := by
  rw [extHighOut_toInt, filterStep_mix, voiceStages_extHp]

theorem cycleStep_extHp_toInt {s : State} (h : s.extEn = true) :
    (cycleStep s).extHp.toInt =
      wrap32 (s.extHp.toInt + 105 * wrap32 (cycleMix s (cycleStep s) - s.extHp.toInt) / 2 ^ 20) := by
  obtain ⟨hhp, -, -⟩ := cycleStep_ext_on h
  rw [hhp, extEnabled_extHp_toInt, extHighOut_voiceStages, voiceStages_extHp]

/-- The low-pass follows the high-pass output of the same cycle. -/
theorem cycleStep_extLp_toInt {s : State} (h : s.extEn = true) :
    (cycleStep s).extLp.toInt =
      wrap32 (s.extLp.toInt +
        409 * (wrap32 (cycleMix s (cycleStep s) - s.extHp.toInt) - s.extLp.toInt) / 2 ^ 12) := by
  obtain ⟨-, hlp, -⟩ := cycleStep_ext_on h
  rw [hlp, extEnabled_extLp_toInt, extHighOut_voiceStages, voiceStages_extLp]

/-- Settles O52: a CLOCK1 is one cycle up to the result; enabled, both accumulators by their integer equations and the
output the new low-pass; disabled, both cleared and the mixer's value passed through. -/
theorem externalFilterCycle : Obligations.ExternalFilterCycle := by
  intro s t h hpOut
  obtain ⟨-, h⟩ := whenAlive_next h
  obtain rfl := Host.Outcome.next.inj h
  constructor
  · intro he
    obtain ⟨-, -, hout⟩ := cycleStep_ext_on he
    exact ⟨cycleStep_extHp_toInt he, cycleStep_extLp_toInt he, hout⟩
  · intro he
    obtain ⟨hhp, hlp, hout⟩ := cycleStep_ext_off he
    exact ⟨hhp, hlp, (congrArg BitVec.toInt hout).trans (filterStep_mix s)⟩

end Sys2Proof.Machine
end

section
/-! The sampler's configuration: the ratio, the kernel's sizes, and the two commands that set them (spec/46_sampler.md
R251 to R256). O34 to O37. -/

namespace Sys2Proof.Machine

open Sys2Proof Sys2Proof.Safety

/-! ## The ratio and the kernel -/

/-- Settles O34: the ratio is a floor, so it lies within one below the rounded quotient. -/
theorem cyclesPerSample : Obligations.CyclesPerSample :=
  ⟨fun fc fs => ⟨Int.floor_le (fc / fs * 65536 + 1 / 2), Int.lt_floor_add_one (fc / fs * 65536 + 1 / 2)⟩,
    by decide +kernel, by decide +kernel⟩

theorem cpsInRange_iff (c : Int) : cpsInRange c = true ↔ 65536 ≤ c ∧ c ≤ 2 ^ 31 - 1 := by
  rw [cpsInRange, Bool.and_eq_true, decide_eq_true_eq, decide_eq_true_eq]
  rfl

theorem Fir.firLength_odd (fc fs pass : Float) : Fir.firLength fc fs pass % 2 = 1 := by
  rw [Fir.firLength, Nat.or_mod_two_eq_one]
  exact .inr rfl

/-- Settles O36: the length has its lowest bit set, the rows are a power of two, and the taps fill them. -/
theorem firSizes : Obligations.FirSizes := by
  intro fc fs pass scale
  have hok := Fir.build_firOk fc fs pass scale
  simp only [firOk, Bool.and_eq_true, decide_eq_true_eq] at hok
  exact ⟨Fir.firLength_odd _ _ _, ⟨_, rfl⟩, hok.2⟩

/-! ## ADJUST_SAMPLING_FREQUENCY -/

theorem adjustOk_eq_decide (fs : Rat) (s : State) : adjustOk s.clockFreq fs = decide (AdjustOk fs s) := by
  rw [Bool.eq_iff_iff, adjustOk_iff, cpsInRange_iff, decide_eq_true_eq]

theorem exec_adjustSamplingFrequency {s : State} (hs : s.alive = true) (fs : Rat) :
    exec (.adjustSamplingFrequency fs) s =
      if AdjustOk fs s then
        .next { s with sampleFreq := fs, cps := (cpsOf s.clockFreq fs).toNat, result := .none }
      else .refused .badSampleFreq := by
  rw [exec, execAdjustSamplingFrequency, whenAlive_alive hs, adjustOk_eq_decide]
  by_cases hfs : AdjustOk fs s
  · rw [if_pos hfs, decide_eq_true hfs, require_ok]
    rfl
  · rw [if_neg hfs, decide_eq_false hfs, require_fail]

/-- Settles O37: an accepted ratio is not negative, so the stored one is exact. -/
theorem adjustFrequency : Obligations.AdjustFrequency := by
  intro fs s hs
  rw [exec_adjustSamplingFrequency hs]
  refine ⟨fun hok => ⟨_, if_pos hok, rfl, ?_⟩, fun hbad => if_neg hbad⟩
  obtain ⟨-, hrange⟩ := hok
  exact toNat_of_cpsInRange ((cpsInRange_iff _).mpr hrange)

/-! ## SET_SAMPLING_PARAMETERS -/

/-- The checks of RESAMPLE alone (spec/46_sampler.md R253 item 4). -/
theorem resampleValid_iff (fc fs pass scale : Rat) :
    resampleValid fc fs pass scale = true ↔
      125 * fc / fs < 16384 ∧ (0 ≤ pass → pass ≤ 9 / 10 * fs / 2) ∧ 9 / 10 ≤ scale ∧ scale ≤ 1 := by
  simp only [resampleValid, Bool.and_eq_true, Bool.or_eq_true, decide_eq_true_eq, and_assoc]
  rw [← not_le (a := (0 : Rat)), ← imp_iff_not_or]
  rfl

theorem samplingValid_iff (fc : Rat) (m : Int) (fs pass scale : Rat) :
    samplingValid fc m fs pass scale = true ↔ SamplingOk fc m fs pass scale := by
  have hmethod : 0 ≤ m ∧ m ≤ 2 ↔ m = 0 ∨ m = 1 ∨ m = 2 := by omega
  simp only [samplingValid, Bool.and_eq_true, Bool.or_eq_true, decide_eq_true_eq, cpsInRange_iff, resampleValid_iff,
    and_assoc, ne_eq, ← imp_iff_not_or]
  rw [← and_assoc (a := 0 ≤ m), hmethod]

theorem exec_setSamplingParameters {s : State} (hs : s.alive = true) (fc : Rat) (m : Int) (fs pass scale : Rat) :
    exec (.setSamplingParameters fc m fs pass scale) s =
      if SamplingOk fc m fs pass scale then
        .next ((commitSampling fc m fs pass scale s).withResult (.flag true))
      else .next (s.withResult (.flag false)) := by
  rw [exec, execSetSamplingParameters, whenAlive_alive hs]
  exact if_congr (samplingValid_iff fc m fs pass scale) rfl rfl

/-- The pass frequency that a commit stores: the effective one under RESAMPLE alone (spec/46_sampler.md R253, R254). -/
theorem commitSampling_passFreq (fc : Rat) (m : Int) (fs pass scale : Rat) (s : State) :
    (commitSampling fc m fs pass scale s).passFreq =
      if m = 2 ∧ pass < 0 then (if 9 / 10 ≤ 2 * 20000 / fs then 9 / 10 * fs / 2 else 20000) else pass := by
  rw [ite_and]
  rfl

/-- The kernel is built with the pass frequency that is stored. -/
theorem commitSampling_method_resample (fc fs pass scale : Rat) (s : State) :
    (commitSampling fc 2 fs pass scale s).method =
      .resample (Fir.build fc fs (commitSampling fc 2 fs pass scale s).passFreq scale) := rfl

/-- Settles O35: the checks are those of the claim, and a commit writes the configuration and clears the rest. -/
theorem samplingParameters : Obligations.SamplingParameters := by
  intro fc m fs pass scale s hs
  rw [exec_setSamplingParameters hs]
  refine ⟨fun hok => ⟨_, if_pos hok, rfl, ?_, commitSampling_passFreq fc m fs pass scale s, ?_, ?_, ?_⟩,
    fun hbad => if_neg hbad⟩
  · obtain ⟨-, -, -, hlow, hhigh, -⟩ := hok
    exact toNat_of_cpsInRange ((cpsInRange_iff _).mpr ⟨hlow, hhigh⟩)
  · rintro rfl
    rfl
  · rintro rfl
    rfl
  · rintro rfl
    exact commitSampling_method_resample fc fs pass scale s

end Sys2Proof.Machine
end

section
/-! The sampling runs and the ring (spec/46_sampler.md R257 to R262). O28 to O33. -/

namespace Sys2Proof.Machine

open Sys2Proof Sys2Proof.Safety

/-! ## The claim's quantities and the loops' -/

theorem nsoOf_eq (s : State) : nsoOf s = nextSo s.method s := by
  rw [nsoOf, nextSo]
  cases s.method <;> rfl

theorem dtsOf_eq (s : State) : dtsOf s = cyclesToSample s.method s := by
  rw [dtsOf, cyclesToSample, asr_eq, nsoOf_eq]

theorem outOf_bounds (s : State) : -32768 ≤ outOf s ∧ outOf s ≤ 32767 := by
  rw [outOf]
  omega

/-- The scaled output fits the s16 that the sampler takes (spec/45_external_filter.md R244). -/
theorem outSample_toInt (s : State) : (outSample s).toInt = outOf s := by
  obtain ⟨hlow, hhigh⟩ := outOf_bounds s
  rw [outSample, outScale_default, s16_toInt hlow hhigh]

theorem cps_lt_of_inv {s : State} (h : Inv s) : s.cps < 2 ^ 31 := by
  obtain ⟨-, -, -, -, -, hrange, hcps⟩ := h
  simp only [cpsInRange, Bool.and_eq_true, decide_eq_true_eq, ← hcps, Params.cpsMax] at hrange
  omega

/-! ## No sample: the tail and the full buffer -/

/-- With fewer cycles than the next sample takes, CLOCK_SAMPLES is the tail of its run. -/
theorem execClockSamples_tail {dt n il : Int} {buf : List Sample} {s t : State} (hdt : dt < dtsOf s)
    (h : exec (.clockSamples dt buf n il) s = .next t) :
    t = { runTail s.method dt.toNat s with callerBuf := buf, result := .counts 0 0 } := by
  obtain ⟨-, ⟨⟨hdt0, -⟩, -⟩, -, -, rfl⟩ := execClockSamples_next h
  rw [dtsOf_eq] at hdt
  rw [pureRunOf_tail (by omega)]
  rfl

/-- With a sample due and no room, CLOCK_SAMPLES runs no cycle. -/
theorem execClockSamples_full {dt il : Int} {buf : List Sample} {s t : State} (hdt : dtsOf s ≤ dt)
    (h : exec (.clockSamples dt buf 0 il) s = .next t) :
    t = { s with callerBuf := buf, result := .counts 0 dt.toNat } := by
  obtain ⟨-, -, -, -, rfl⟩ := execClockSamples_next h
  rw [dtsOf_eq] at hdt
  rw [Int.toNat_zero, pureRunOf_full (by omega)]
  rfl

/-- Only the last output of a tail under INTERPOLATE moves `sprev`. -/
theorem prevAfterTail_eq_sprev {m : SampleMethod} {dt : Nat} (h : m ≠ .interpolate ∨ dt = 0) (s : State) :
    prevAfterTail m dt s = s.sprev := by
  cases m with
  | interpolate =>
    obtain rfl := h.resolve_left (not_not_intro rfl)
    rfl
  | decimate => rfl
  | resample fir => rfl

/-- Settles O29: a run that has no sample is its tail, or stops at once. -/
theorem tailAndFullBuffer : Obligations.TailAndFullBuffer := by
  intro dt n il buf s t hinv hexec
  constructor
  · intro hdt
    obtain ⟨-, ⟨⟨hdt0, -⟩, -⟩, -⟩ := execClockSamples_next hexec
    obtain rfl := execClockSamples_tail hdt hexec
    rw [dtsOf_eq] at hdt
    have hso := tail_so_toInt (cps_lt_of_inv hinv) (show dt.toNat < cyclesToSample s.method s by omega)
    rw [Int.toNat_of_nonneg hdt0] at hso
    rw [runTail_state, Int.toNat_of_nonneg hdt0]
    refine ⟨rfl, rfl, hso, fun h => prevAfterTail_eq_sprev (h.imp_right fun h0 => by omega) s, fun hm h1 => ?_⟩
    · show (prevAfterTail s.method dt.toNat s).toInt = _
      rw [hm, prevAfterTail, if_pos (by omega), outSample_toInt]
  · rintro hdt rfl
    exact execClockSamples_full hdt hexec

/-! ## One sample -/

/-- A run of exactly the cycles to the next sample writes that sample and has an empty tail. -/
theorem pureRunOf_one (m : SampleMethod) (cap : Nat) (s : State) :
    pureRunOf m (cap + 1) (cyclesToSample m s) s =
      { state := (produceSample m (cyclesToSample m s) (nextSo m s) s).1
        samples := [(produceSample m (cyclesToSample m s) (nextSo m s) s).2]
        remaining := 0 } := by
  rw [pureRunOf_sample le_rfl, Nat.sub_self, pureRunOf_zero]

/-- One sample under any method: the counts, the sample in the buffer, and the sampler's position. -/
theorem execClockSamples_one {n il : Int} {buf : List Sample} {s t : State} (hn : 1 ≤ n)
    (h : exec (.clockSamples (dtsOf s) buf n il) s = .next t) :
    t.result = .counts 1 0 ∧ t.callerBuf[0]? = some (sampleValue s.method (dtsOf s) (nsoOf s) s) ∧
      t.so.toInt = nsoOf s % 2 ^ 16 - soOffset s.method ∧ t.sprev = prevAfterSample s.method (dtsOf s) s := by
  have hp := cyclesToSample_pos s.method s
  obtain ⟨-, -, ⟨hil, -⟩, hroom, rfl⟩ := execClockSamples_next h
  have hbuf : 0 < buf.length := by nlinarith
  obtain ⟨cap, hcap⟩ : ∃ cap, n.toNat = cap + 1 := ⟨n.toNat - 1, by omega⟩
  rw [dtsOf_eq, nsoOf_eq, Int.toNat_natCast, hcap, pureRunOf_one, produceSample_value _ hp, produceSample_state _ hp]
  refine ⟨rfl, ?_, soAfter_toInt _ _, rfl⟩
  rw [writeAll, writeAll, Nat.zero_mul, List.getElem?_set_self hbuf]

/-- Settles O30: the sample is the output after its cycles. -/
theorem decimateSample : Obligations.DecimateSample := by
  intro n il buf s t hm hn hexec
  obtain ⟨hres, hbuf, hso, hprev⟩ := execClockSamples_one hn hexec
  rw [hm] at hbuf hso hprev
  refine ⟨hres, ?_, hso, hprev⟩
  rw [hbuf, Option.map_some, sampleValue, outSample_toInt]

/-! ## Interpolation (spec/46_sampler.md R258) -/

/-- A point between two values, at a fraction in 16 bits, lies in every interval that holds the two. -/
theorem interpolated_bounds {lo hi p q f : Int} (hp : lo ≤ p ∧ p ≤ hi) (hq : lo ≤ q ∧ q ≤ hi)
    (hf : 0 ≤ f ∧ f ≤ 2 ^ 16) : lo ≤ p + f * (q - p) / 2 ^ 16 ∧ p + f * (q - p) / 2 ^ 16 ≤ hi := by
  have hlow : lo * 2 ^ 16 ≤ p * 2 ^ 16 + f * (q - p) := by nlinarith
  have hhigh : p * 2 ^ 16 + f * (q - p) ≤ hi * 2 ^ 16 := by nlinarith
  omega

/-- The interpolated sample fits an s16 (spec/46_sampler.md R258). -/
theorem interpolateValue_toInt {s : State} {prev frac : Int} (hso : s.so.toInt = frac)
    (hprev : s.sprev.toInt = prev) (hfrac : 0 ≤ frac ∧ frac ≤ 2 ^ 16) (hrange : -32768 ≤ prev ∧ prev ≤ 32767) :
    (interpolateValue s).toInt = prev + frac * (outOf s - prev) / 2 ^ 16 := by
  obtain ⟨hlow, hhigh⟩ := interpolated_bounds hrange (outOf_bounds s) hfrac
  simp only [interpolateValue, asr_eq, outSample_toInt, hso, hprev]
  exact s16_toInt hlow hhigh

/-- Settles O31: `sprev` holds the output before the last cycle when the sample is taken, and the last one after it. -/
theorem interpolateSample : Obligations.InterpolateSample := by
  intro n il buf s t hm hn hexec prev now frac
  obtain ⟨hres, hbuf, hso, hprev⟩ := execClockSamples_one hn hexec
  rw [hm] at hbuf hso hprev
  refine ⟨hres, ?_, hso.trans (Int.sub_zero _), (congrArg BitVec.toInt hprev).trans (outSample_toInt _)⟩
  rw [hbuf, Option.map_some, sampleValue]
  refine congrArg some (interpolateValue_toInt ?_ (outSample_toInt _) ?_ (outOf_bounds _))
  · exact (soAfter_toInt _ _).trans (Int.sub_zero _)
  · omega

/-! ## The window (spec/46_sampler.md R259) -/

/-- The resampled value: the two window sums, interpolated, scaled and clamped to an s16. -/
theorem resampleValue_toInt {fir : FirSet} {s : State} {frac base : Int} {row : Nat} (hso : s.so.toInt = frac)
    (hbase : base = s.ri.toNat - fir.n) (hrow : row = (frac * fir.res / 2 ^ 16).toNat) :
    let v1 := firSum fir s base row
    let v2 := if row + 1 = fir.res then firSum fir s (base - 1) 0 else firSum fir s base (row + 1)
    (resampleValue fir s).toInt =
      max (-32768) (min 32767 ((v1 + frac * fir.res % 2 ^ 16 * (v2 - v1) / 2 ^ 16) / 2 ^ 15)) := by
  intro v1 v2
  subst hso hbase hrow
  obtain ⟨hlow, hhigh⟩ := clamp_bounds (lo := -32768) (hi := 32767)
    (x := (v1 + s.so.toInt * fir.res % 2 ^ 16 * (v2 - v1) / 2 ^ 16) / 2 ^ 15) (by decide)
  rw [← clamp_eq (by decide), ← s16_toInt hlow hhigh]
  simp only [resampleValue, asr_eq]
  rfl

/-- The window sums look at the ring, not at the position. -/
theorem firSum_with_so (fir : FirSet) (s : State) (so : S32) (base : Int) (row : Nat) :
    firSum fir { s with so := so } base row = firSum fir s base row := rfl

/-- The row of a fraction below 1 is a row of the table. -/
theorem firRow_lt {frac : Int} {res : Nat} (hfrac : frac < 2 ^ 16) (hres : 0 < res) :
    (frac * res / 2 ^ 16).toNat < res := by
  have hlt : frac * res / 2 ^ 16 < res := Int.ediv_lt_of_lt_mul (by decide) (by nlinarith)
  omega

/-- Settles O32: the rows named are rows of the table, whose window sums are the sums over offsets. -/
theorem resampleSample : Obligations.ResampleSample := by
  intro n il buf s t fir hinv hm hn hexec u entry window frac row base v1 v2
  obtain ⟨hres, hbuf, hso, hprev⟩ := execClockSamples_one hn hexec
  obtain ⟨-, -, hfir, -⟩ := hinv
  rw [hm] at hbuf hso hprev hfir
  simp only [firOk, Bool.and_eq_true, decide_eq_true_eq] at hfir
  obtain ⟨⟨-, hrows⟩, hlen⟩ := hfir
  have hrow : row < fir.res := firRow_lt (by omega) hrows
  refine ⟨hres, ?_, hso.trans (Int.sub_zero _), hprev⟩
  rw [hbuf, Option.map_some, sampleValue]
  have hvalue := resampleValue_toInt (fir := fir) (s := { u with so := soAfter (.resample fir) (nsoOf s) })
    (frac := frac) (base := base) (row := row) ((soAfter_toInt _ _).trans (Int.sub_zero _)) rfl rfl
  have hwindow : ∀ b r, r < fir.res → firSum fir u b r = window b r := fun b _ hr => firSum_eq u b hlen hr
  have hv2 : (if row + 1 = fir.res then firSum fir u (base - 1) 0 else firSum fir u base (row + 1)) = v2 :=
    ite_congr rfl (fun _ => hwindow _ 0 hrows) fun hlast => hwindow _ (row + 1) (by omega)
  simp only [firSum_with_so] at hvalue
  rw [hv2, hwindow base row hrow] at hvalue
  exact congrArg some hvalue

/-! ## Two runs in a row (spec/46_sampler.md R261) -/

/-- The run of a CLOCK_SAMPLES, apart from the caller's buffer. -/
abbrev runOf (dt n : Int) (s : State) : PureRun := pureRunOf s.method n.toNat dt.toNat s

theorem execClockSamples_runOf {dt n il : Int} {buf : List Sample} {s t : State}
    (h : exec (.clockSamples dt buf n il) s = .next t) :
    CountOk dt ∧ CountOk n ∧ InterleaveOk il ∧ n * il ≤ buf.length ∧
      t = { (runOf dt n s).state with
        callerBuf := writeAll il.toNat 0 (runOf dt n s).samples buf
        result := .counts (runOf dt n s).samples.length (runOf dt n s).remaining } := by
  obtain ⟨-, ⟨hdt, hn⟩, hil, hroom, ht⟩ := execClockSamples_next h
  exact ⟨hdt, hn, hil, hroom, ht⟩

theorem runOf_method (dt n : Int) (s : State) : (runOf dt n s).state.method = s.method := by
  obtain ⟨-, hstate⟩ := pureRun_state s.method n.toNat dt.toNat s
  rw [hstate, clock_method]

/-- Frame k holds sample k of the run. -/
theorem execClockSamples_frame {dt n il : Int} {buf : List Sample} {s t : State} {k : Nat}
    (h : exec (.clockSamples dt buf n il) s = .next t) (hk : k < (runOf dt n s).samples.length) :
    t.callerBuf[k * il.toNat]? = (runOf dt n s).samples[k]? := by
  obtain ⟨-, ⟨hn, -⟩, ⟨hil, -⟩, hroom, rfl⟩ := execClockSamples_runOf h
  have hcap : (runOf dt n s).samples.length ≤ n.toNat := (pureRun_counts s.method n.toNat dt.toNat s).1
  have hframe : k * il.toNat < buf.length :=
    calc k * il.toNat < n.toNat * il.toNat := Nat.mul_lt_mul_of_pos_right (by omega) (by omega)
      _ ≤ buf.length := by
        zify
        rwa [Int.toNat_of_nonneg hn, Int.toNat_of_nonneg (by omega)]
  have hat := writeAll_at (il := il.toNat) (k := 0) (buf := buf) (by omega) hk (by rwa [Nat.zero_add])
  rwa [Nat.zero_add] at hat

/-- The run of both lengths is the first run, whose cycles are used up, then the second: from the state of the first,
whatever stands in its buffer and its result. -/
theorem runOf_split {a b n m : Int} {s : State} (hc : s.cps < 2 ^ 31) (ha : 0 ≤ a) (hb : 0 ≤ b) (hm : 1 ≤ m)
    (hrem : (runOf a n s).remaining = 0) (buf : List Sample) (r : Result) :
    let first := runOf a n s
    let second := runOf b m { first.state with callerBuf := buf, result := r }
    let both := runOf (a + b) (first.samples.length + m) s
    both.samples = first.samples ++ second.samples ∧ both.remaining = second.remaining ∧
      second.state = { both.state with callerBuf := buf, result := r } := by
  intro first second both
  have hboth : both = { pureRunOf s.method m.toNat b.toNat first.state with
      samples := first.samples ++ (pureRunOf s.method m.toNat b.toNat first.state).samples } := by
    have hcap : ((first.samples.length : Int) + m).toNat = first.samples.length + m.toNat := by omega
    have hdt : (a + b).toNat = a.toNat + b.toNat := by omega
    show pureRunOf s.method _ _ s = _
    rw [hcap, hdt]
    exact pureRun_split hc hrem (by omega)
  have hsecond : second = { pureRunOf s.method m.toNat b.toNat first.state with
      state := { (pureRunOf s.method m.toNat b.toNat first.state).state with callerBuf := buf, result := r } } := by
    show pureRunOf first.state.method _ _ _ = _
    rw [runOf_method, pureRun_side]
  rw [hboth, hsecond]
  exact ⟨rfl, rfl, rfl⟩

/-- Settles O28: the two runs apart from the buffer are one, and each buffer holds the samples of its run. -/
theorem splitRunsEqualOneRun : Obligations.SplitRunsEqualOneRun := by
  intro a b n m il bufA bufB buf s s' t u w w' rem hinv hm hA hcountsA hB hcountsB hU
  have frameA := fun k => execClockSamples_frame (k := k) hA
  have frameB := fun k => execClockSamples_frame (k := k) hB
  have frameU := fun k => execClockSamples_frame (k := k) hU
  obtain ⟨⟨ha, -⟩, -, -, -, hs'⟩ := execClockSamples_runOf hA
  obtain ⟨⟨hb, -⟩, -, -, -, ht⟩ := execClockSamples_runOf hB
  obtain ⟨-, -, -, -, hu⟩ := execClockSamples_runOf hU
  rw [hs'] at hcountsA
  rw [ht] at hcountsB
  obtain ⟨rfl, hremA⟩ := Result.counts.inj hcountsA
  obtain ⟨rfl, rfl⟩ := Result.counts.inj hcountsB
  obtain ⟨hsamples, hrem, hstate⟩ := runOf_split (n := n) (cps_lt_of_inv hinv) ha hb hm hremA _ _
  rw [← hs'] at hsamples hrem hstate
  have hlen := congrArg List.length hsamples
  rw [List.length_append] at hlen
  refine ⟨?_, fun k hk => ?_, fun k hk => ?_⟩
  · rw [hstate] at ht
    rw [hu, ht, ← hlen, ← hrem]
  · rw [frameU k (by omega), frameA k hk, hsamples, List.getElem?_append_left hk]
  · rw [frameU _ (by omega), frameB k hk, hsamples, List.getElem?_append_right (Nat.le_add_right _ _),
      Nat.add_sub_cancel_left]

/-! ## The ring (spec/46_sampler.md R262) -/

/-- One more cycle writes its output at the ring's index. -/
theorem ringGet_clock_succ {s : State} (h : ringWf s.ring = true) (k i : Nat) :
    ringGet (clock (k + 1) s).ring i =
      if i = (s.ri.toNat + k) % 16384 then outSample (clock (k + 1) s) else ringGet (clock k s).ring i := by
  rw [clock_succ_last, cycleStep_ring, ringGet_ringSet (clock_ringWf k h), clock_ri_toNat]

/-- An index that none of the k cycles writes keeps its entry. -/
theorem ringGet_clock_other {s : State} (h : ringWf s.ring = true) {k i : Nat}
    (hi : ∀ j, j < k → i ≠ (s.ri.toNat + j) % 16384) : ringGet (clock k s).ring i = ringGet s.ring i := by
  induction k with
  | zero => rfl
  | succ k ih =>
    rw [ringGet_clock_succ h, if_neg (hi k (by omega)), ih fun j hj => hi j (by omega)]

/-- A cycle's output stays in the ring until the ring comes round. -/
theorem ringGet_clock_written {s : State} (h : ringWf s.ring = true) {k j : Nat} (hk : k ≤ 16384) (hj : j < k) :
    ringGet (clock k s).ring ((s.ri.toNat + j) % 16384) = outSample (clock (j + 1) s) := by
  induction k with
  | zero => exact absurd hj (Nat.not_lt_zero j)
  | succ k ih =>
    rw [ringGet_clock_succ h]
    by_cases hlast : j = k
    · rw [hlast, if_pos rfl]
    · rw [if_neg (by omega), ih (by omega) (by omega)]

/-- Settles O33: the written entries, the others and the index, each over k cycles. -/
theorem ringHoldsOutputs : Obligations.RingHoldsOutputs := by
  intro k s h hk
  refine ⟨fun j hj => ?_, fun _ _ hi => ringGet_clock_other h hi, clock_ri_toNat k s⟩
  rw [ringGet_clock_written h hk hj, outSample_toInt]

end Sys2Proof.Machine
end

section
/-! The ring outside RESAMPLE (spec/47_snapshot.md R293): O57. -/

namespace Sys2Proof.Safety

open Sys2Proof Sys2Proof.Machine

/-! ## The relation over outcomes -/

/-- The state with another ring and index. -/
def withRing (q : Ring) (j : BitVec 14) (s : State) : State := { s with ring := q, ri := j }

theorem sameButRing_withRing (q : Ring) (j : BitVec 14) (s : State) : SameButRing s (withRing q j s) := rfl

theorem SameButRing.exists_eq_withRing {s s' : State} (h : SameButRing s s') : ∃ q j, s' = withRing q j s :=
  ⟨s'.ring, s'.ri, h⟩

theorem SameButRing.withResult {s s' : State} (h : SameButRing s s') (r : Result) :
    SameButRing (s.withResult r) (s'.withResult r) := by
  obtain ⟨q, j, rfl⟩ := h.exists_eq_withRing
  rfl

/-- Where the first outcome is a next state, so is the second, and the two differ only in the ring, outside RESAMPLE,
or not at all. -/
def RingNext (o o' : Outcome) : Prop :=
  ∀ t, o = .next t → ∃ t', o' = .next t' ∧ ((isResample t.method = false ∧ SameButRing t t') ∨ t' = t)

theorem ringNext_refl (o : Outcome) : RingNext o o := fun t h => ⟨t, h, .inr rfl⟩

theorem ringNext_refused (r : Refusal) (o : Outcome) : RingNext (.refused r) o := fun _ h => nomatch h

theorem ringNext_require {o o' : Outcome} (ok : Bool) (r : Refusal) (ho : RingNext o o') :
    RingNext (require ok r o) (require ok r o') := by
  cases ok with
  | true => exact ho
  | false => exact ringNext_refused r _

theorem SameButRing.done {u u' : State} (h : SameButRing u u') (hm : isResample u.method = false) (r : Result) :
    RingNext (done r u) (done r u') := by
  rintro _ ⟨⟩
  exact ⟨_, rfl, .inl ⟨hm, h.withResult r⟩⟩

section Commands

variable {s : State} {q : Ring} {j : BitVec 14}

theorem ringNext_whenAlive {o o' : Outcome} (ho : RingNext o o') :
    RingNext (whenAlive s o) (whenAlive (withRing q j s) o') := by
  rcases Bool.eq_false_or_eq_true s.alive with hs | hs
  · rw [whenAlive_alive hs, whenAlive_alive (s := withRing q j s) hs]
    exact ho
  · rw [whenAlive_dead hs]
    exact ringNext_refused _ _

variable (hm : isResample s.method = false)

include hm

/-- An update that keeps the relation and the method. -/
theorem ringNext_update (r : Result) {u u' : State} (hu : SameButRing u u') (hmethod : u.method = s.method) :
    RingNext (done r u) (done r u') :=
  hu.done (hmethod.symm ▸ hm) r

/-- Cycles write the ring on both sides and read it on neither. -/
theorem ringNext_clock (k : Nat) : RingNext (done .none (clock k s)) (done .none (clock k (withRing q j s))) :=
  ringNext_update hm .none ((sameButRing_withRing q j s).clock k) (clock_method k s)

/-- A WRITE whose effect keeps the relation and the method. -/
theorem ringNext_busWrite {a : Nat} {effect : Byte → Byte → State → State} {d : Byte}
    (heffect : ∀ a : Fin 29, SameButRing (effect (s.reg a) d (s.withReg a d))
      (effect (s.reg a) d ((withRing q j s).withReg a d)))
    (hmethod : ∀ a : Fin 29, (effect (s.reg a) d (s.withReg a d)).method = s.method) :
    RingNext (busWrite a effect d s) (busWrite a effect d (withRing q j s)) := by
  refine ringNext_whenAlive ?_
  by_cases ha : a < 29
  · rw [dif_pos ha, dif_pos ha]
    exact ringNext_update hm .none (heffect ⟨a, ha⟩) (hmethod ⟨a, ha⟩)
  · rw [dif_neg ha]
    exact ringNext_refused _ _

/-- A READ of a value that the ring does not reach. -/
theorem ringNext_busRead {a : Nat} {value : Fin 29 → State → Byte}
    (hvalue : ∀ a : Fin 29, value a (withRing q j s) = value a s) :
    RingNext (busRead a value s) (busRead a value (withRing q j s)) := by
  refine ringNext_whenAlive ?_
  by_cases ha : a < 29
  · rw [dif_pos ha, dif_pos ha, hvalue ⟨a, ha⟩]
    exact (sameButRing_withRing q j s).done hm _
  · rw [dif_neg ha]
    exact ringNext_refused _ _

theorem ringNext_setChipModel (m : Int) :
    RingNext (execSetChipModel m s) (execSetChipModel m (withRing q j s)) := by
  refine ringNext_whenAlive ?_
  cases modelOfOperand m with
  | none => exact ringNext_refused _ _
  | some c => exact ringNext_update hm .none (by rfl) (by rfl)

/-- An accepted configuration clears the ring on both sides (spec/46_sampler.md R254). -/
theorem ringNext_setSamplingParameters (fc : Rat) (m : Int) (fs pass scale : Rat) :
    RingNext (execSetSamplingParameters fc m fs pass scale s)
      (execSetSamplingParameters fc m fs pass scale (withRing q j s)) := by
  refine ringNext_whenAlive ?_
  cases samplingValid fc m fs pass scale with
  | true => exact ringNext_refl _
  | false => exact (sameButRing_withRing q j s).done hm (.flag false)

/-- A run writes the same samples in the same cycles. -/
theorem ringNext_clockSamplesRun (dt : Nat) (buf : List Sample) (n il : Nat) :
    RingNext (clockSamplesRun dt buf n il s) (clockSamplesRun dt buf n il (withRing q j s)) := by
  obtain ⟨hstate, hsamples, hremaining⟩ := (sameButRing_withRing q j s).run s.method hm n dt
  have hmethod : (pureRunOf s.method n dt s).state.method = s.method := by
    obtain ⟨-, hrun⟩ := pureRun_state s.method n dt s
    rw [hrun, clock_method]
  have hmethod' : (withRing q j s).method = s.method := rfl
  rw [clockSamplesRun_run, clockSamplesRun_run, hmethod', hsamples, hremaining]
  generalize pureRunOf s.method n dt s = p at hstate hmethod ⊢
  obtain ⟨q', j', h⟩ := hstate.exists_eq_withRing
  rw [h]
  rintro _ ⟨⟩
  exact ⟨_, rfl, .inl ⟨hmethod.symm ▸ hm, rfl⟩⟩

/-- Every command keeps the relation: a register write or read looks at neither the ring nor its index, a run of cycles
writes them and reads them under RESAMPLE alone, CREATE, RESET and an accepted configuration clear them, and every other
update acts on the two states alike. -/
theorem ringNext_exec (i : Instr) : RingNext (exec i s) (exec i (withRing q j s)) := by
  have same := sameButRing_withRing q j s
  cases i with
  | wrFreqLo1 d | wrFreqHi1 d | wrPwLo1 d | wrPwHi1 d | wrCtrl1 d | wrAd1 d | wrSr1 d
  | wrFreqLo2 d | wrFreqHi2 d | wrPwLo2 d | wrPwHi2 d | wrCtrl2 d | wrAd2 d | wrSr2 d
  | wrFreqLo3 d | wrFreqHi3 d | wrPwLo3 d | wrPwHi3 d | wrCtrl3 d | wrAd3 d | wrSr3 d
  | wrFcLo d | wrFcHi d | wrResFilt d | wrModeVol d | wrPotX d | wrPotY d | wrOsc3 d | wrEnv3 d =>
    exact ringNext_busWrite hm (fun _ => rfl) fun _ => rfl
  | rdFreqLo1 | rdFreqHi1 | rdPwLo1 | rdPwHi1 | rdCtrl1 | rdAd1 | rdSr1
  | rdFreqLo2 | rdFreqHi2 | rdPwLo2 | rdPwHi2 | rdCtrl2 | rdAd2 | rdSr2
  | rdFreqLo3 | rdFreqHi3 | rdPwLo3 | rdPwHi3 | rdCtrl3 | rdAd3 | rdSr3
  | rdFcLo | rdFcHi | rdResFilt | rdModeVol | rdPotX | rdPotY | rdOsc3 | rdEnv3 =>
    exact ringNext_busRead hm fun _ => rfl
  | create => exact ringNext_refl _
  | reset => exact ringNext_whenAlive (ringNext_refl _)
  | release | enableFilter _ | enableExtFilter _ => exact ringNext_whenAlive (ringNext_update hm .none (by rfl) (by rfl))
  | setChipModel m => exact ringNext_setChipModel hm m
  | setSamplingParameters fc m fs pass scale => exact ringNext_setSamplingParameters hm fc m fs pass scale
  | adjustSamplingFrequency _ | input _ =>
    exact ringNext_whenAlive (ringNext_require _ _ (ringNext_update hm .none (by rfl) (by rfl)))
  | writeState blob =>
    exact ringNext_whenAlive (ringNext_require _ _ (ringNext_update hm .none (by rfl) (restore_method blob s)))
  | clock1 => exact ringNext_whenAlive (ringNext_clock hm 1)
  | clockN n => exact ringNext_whenAlive (ringNext_require _ _ (ringNext_clock hm n.toNat))
  | clockSamples dt buf n il =>
    exact ringNext_whenAlive (ringNext_require _ _ (ringNext_require _ _ (ringNext_require _ _
      (ringNext_clockSamplesRun hm _ _ _ _))))
  | output | readState => exact ringNext_whenAlive (same.done hm _)
  | outputBits _ => exact ringNext_whenAlive (ringNext_require _ _ (same.done hm _))

end Commands

/-- Settles O57: the relation is one that every command keeps while the method is not RESAMPLE. -/
theorem ringUnreadOutsideResample : Obligations.RingUnreadOutsideResample := by
  intro i s s' t h hm ht
  obtain ⟨q, j, rfl⟩ := h.exists_eq_withRing
  exact ringNext_exec hm i t ht

end Sys2Proof.Safety
end

section
/-! The snapshot (spec/47_snapshot.md R290 to R294): its layout, its restore, and the two together. O54, O55 and O56. -/

namespace Sys2Proof.Safety

open Sys2Proof Sys2Proof.Machine

/-! ## The parts of a snapshot -/

/-- The bytes of a snapshot from offset 80 on: the filters, the audio input and the sampler's position. -/
def snapshotTail (s : State) : List Byte :=
  leBytes 4 s.bp ++ (leBytes 4 s.lp ++ (leBytes 4 s.extHp ++ (leBytes 4 s.extLp ++ (leBytes 4 s.extOut ++
    (leBytes 2 s.extIn ++ (leBytes 4 s.so ++ (leBytes 2 s.sprev ++ reserved 4)))))))

theorem snapshot_parts (s : State) :
    snapshot s = s.regs.toList ++ (reserved 3 ++ (voiceBlock (s.voice 0) ++ (voiceBlock (s.voice 1) ++
      (voiceBlock (s.voice 2) ++ snapshotTail s)))) := by
  simp only [snapshot, snapshotTail, List.append_assoc]

theorem snapshot_length (s : State) : (snapshot s).length = 112 := by
  simp only [snapshot_parts, snapshotTail, List.length_append, voiceBlock_length, leBytes_length, Vector.length_toList,
    reserved, List.length_replicate]

theorem regs_toList_length (s : State) : s.regs.toList.length = 29 := Vector.length_toList

theorem reserved_length (n : Nat) : (reserved n).length = n := List.length_replicate

theorem leNat_snapshot_reg (s : State) (a : Fin 29) : leNat (snapshot s) a.val 1 = (s.reg a).toNat := by
  have ha : a.val < s.regs.toList.length := by rw [regs_toList_length]; exact a.isLt
  rw [snapshot_parts, leNat_take ha, leNat_one, List.getD_eq_getElem _ _ ha, Vector.getElem_toList]
  rfl

theorem leNat_snapshot_gap (s : State) : leNat (snapshot s) 29 3 = 0 := by
  rw [snapshot_parts, leNat_skip 29 (regs_toList_length s) (by omega), leNat_take (by rw [reserved_length]),
    leNat_reserved]

/-- From a voice's offset on, a snapshot begins with the voice's block. -/
theorem leNat_snapshot_voice (s : State) (v : Fin 3) : ∃ rest, ∀ k n,
    leNat (snapshot s) (32 + 16 * v.val + k) n = leNat (voiceBlock (s.voice v) ++ rest) k n := by
  have hregs := regs_toList_length s
  have hgap := reserved_length 3
  have hblock := fun v => voiceBlock_length (s.voice v)
  have skip : ∀ k n, leNat (snapshot s) (32 + k) n = leNat (voiceBlock (s.voice 0) ++ (voiceBlock (s.voice 1) ++
      (voiceBlock (s.voice 2) ++ snapshotTail s))) k n := fun k n => by
    rw [snapshot_parts, leNat_skip 29 hregs (by omega), leNat_skip 3 hgap (by omega),
      show 32 + k - 29 - 3 = k by omega]
  fin_cases v
  · exact ⟨voiceBlock (s.voice 1) ++ (voiceBlock (s.voice 2) ++ snapshotTail s), skip⟩
  · refine ⟨voiceBlock (s.voice 2) ++ snapshotTail s, fun k n => ?_⟩
    show leNat (snapshot s) (32 + 16 + k) n = _
    rw [Nat.add_assoc, skip, leNat_skip 16 (hblock 0) (by omega), Nat.add_sub_cancel_left]
    rfl
  · refine ⟨snapshotTail s, fun k n => ?_⟩
    show leNat (snapshot s) (32 + (16 + 16) + k) n = _
    rw [Nat.add_assoc, skip, Nat.add_assoc, leNat_skip 16 (hblock 0) (by omega), Nat.add_sub_cancel_left,
      leNat_skip 16 (hblock 1) (by omega), Nat.add_sub_cancel_left]
    rfl

theorem leNat_snapshot_tail (s : State) {off : Nat} (h : 80 ≤ off) (n : Nat) :
    leNat (snapshot s) off n = leNat (snapshotTail s) (off - 80) n := by
  have hblock := fun v => voiceBlock_length (s.voice v)
  rw [snapshot_parts, leNat_skip 29 (regs_toList_length s) (by omega), leNat_skip 3 (reserved_length 3) (by omega),
    leNat_skip 16 (hblock 0) (by omega), leNat_skip 16 (hblock 1) (by omega), leNat_skip 16 (hblock 2) (by omega)]
  congr 1

/-! ## The fields of a snapshot -/

/-- The fields of voice v at its offset (spec/47_snapshot.md R290). -/
theorem snapshot_voice_fields (s : State) (v : Fin 3) :
    leNat (snapshot s) (32 + 16 * v.val) 3 = (s.voice v).acc.toNat ∧
      leNat (snapshot s) (32 + 16 * v.val + 3) 3 = (s.voice v).lfsr.toNat ∧
      leNat (snapshot s) (32 + 16 * v.val + 6) 1 = (s.voice v).level.toNat ∧
      leNat (snapshot s) (32 + 16 * v.val + 7) 1 = (s.voice v).phase.toByte.toNat ∧
      leNat (snapshot s) (32 + 16 * v.val + 8) 2 = (s.voice v).rc.toNat ∧
      leNat (snapshot s) (32 + 16 * v.val + 10) 1 = (s.voice v).exp.toNat ∧
      leNat (snapshot s) (32 + 16 * v.val + 11) 5 = 0 := by
  obtain ⟨rest, hrest⟩ := leNat_snapshot_voice s v
  simp only [hrest]
  have h0 : leNat (snapshot s) (32 + 16 * v.val) 3 = _ := hrest 0 3
  rw [h0]
  exact voiceBlock_fields (s.voice v) rest

/-- A word at the head of a list, in as many bytes as it has. -/
theorem leNat_word (n : Nat) (x : BitVec (8 * n)) (rest : List Byte) : leNat (leBytes n x ++ rest) 0 n = x.toNat := by
  have h : x.toNat < 256 ^ n := by
    have := x.isLt
    rwa [Nat.pow_mul] at this
  rw [leNat_take (by rw [leBytes_length, Nat.zero_add]), leNat_leBytes_all, Nat.mod_eq_of_lt h]

/-- The fields after the voices (spec/47_snapshot.md R290). -/
theorem snapshot_tail_fields (s : State) :
    leNat (snapshot s) 80 4 = s.bp.toNat ∧ leNat (snapshot s) 84 4 = s.lp.toNat ∧
      leNat (snapshot s) 88 4 = s.extHp.toNat ∧ leNat (snapshot s) 92 4 = s.extLp.toNat ∧
      leNat (snapshot s) 96 4 = s.extOut.toNat ∧ leNat (snapshot s) 100 2 = s.extIn.toNat ∧
      leNat (snapshot s) 102 4 = s.so.toNat ∧ leNat (snapshot s) 106 2 = s.sprev.toNat ∧
      leNat (snapshot s) 108 4 = 0 := by
  have l4 := fun x : S32 => leBytes_length 4 x
  have l2 := fun x : Sample => leBytes_length 2 x
  refine ⟨?_, ?_, ?_, ?_, ?_, ?_, ?_, ?_, ?_⟩
  all_goals rw [leNat_snapshot_tail s (by omega), snapshotTail]
  · exact leNat_word 4 _ _
  all_goals rw [leNat_skip 4 (l4 _) (by omega)]
  · exact leNat_word 4 _ _
  all_goals rw [leNat_skip 4 (l4 _) (by omega)]
  · exact leNat_word 4 _ _
  all_goals rw [leNat_skip 4 (l4 _) (by omega)]
  · exact leNat_word 4 _ _
  all_goals rw [leNat_skip 4 (l4 _) (by omega)]
  · exact leNat_word 4 _ _
  all_goals rw [leNat_skip 4 (l4 _) (by omega)]
  · exact leNat_word 2 _ _
  all_goals rw [leNat_skip 2 (l2 _) (by omega)]
  · exact leNat_word 4 _ _
  all_goals rw [leNat_skip 4 (l4 _) (by omega)]
  · exact leNat_word 2 _ _
  · rw [leNat_skip 2 (l2 _) (by omega), leNat_reserved]

theorem exec_readState {s : State} (hs : s.alive = true) :
    exec .readState s = .next { s with result := .blob (snapshot s) } :=
  whenAlive_alive hs _

/-- Settles O54: the blob is the snapshot, whose fields stand at their offsets. -/
theorem snapshotLayout : Obligations.SnapshotLayout := by
  intro s hs
  refine ⟨snapshot s, exec_readState hs, rfl, snapshot_length s, leNat_snapshot_reg s, leNat_snapshot_gap s, fun v => ?_,
    snapshot_tail_fields s⟩
  obtain ⟨hacc, hlfsr, hlevel, hphase, hrest⟩ := snapshot_voice_fields s v
  refine ⟨hacc, hlfsr, hlevel, ?_, hrest⟩
  rw [hphase]
  cases (s.voice v).phase <;> rfl

/-! ## A restore, field by field -/

/-- The two spellings of R292's checks. -/
theorem snapshotOk_iff (b : List Byte) : snapshotOk b = true ↔ BlobOk b := by
  simp only [snapshotOk, Bool.and_eq_true, decide_eq_true_eq, and_assoc]
  rfl

/-- In an accepted blob the phase byte of every voice is at most 2. -/
theorem BlobOk.phase_le {b : List Byte} (h : BlobOk b) (v : Fin 3) : (byteAt b (32 + 16 * v.val + 7)).toNat ≤ 2 := by
  obtain ⟨-, h0, h1, h2⟩ := h
  fin_cases v
  · exact h0
  · exact h1
  · exact h2

theorem exec_writeState {s : State} (hs : s.alive = true) (b : List Byte) :
    exec (.writeState b) s =
      if BlobOk b then .next ((restore b s).withResult .none) else .refused .badSnapshot := by
  rw [exec, execWriteState, whenAlive_alive hs]
  by_cases hb : BlobOk b
  · rw [if_pos hb, (snapshotOk_iff b).mpr hb, require_ok, done_eq]
  · rw [if_neg hb, Bool.eq_false_iff.mpr (mt (snapshotOk_iff b).mp hb), require_fail]

/-- The fields of a restored voice, as numbers (spec/47_snapshot.md R292). -/
theorem restoreVoice_fields (m : Config.NoiseModel) (b : List Byte) (v : Fin 3) :
    (restoreVoice m b v).acc.toNat = leNat b (32 + 16 * v.val) 3 ∧
      (restoreVoice m b v).lfsr.toNat = leNat b (32 + 16 * v.val + 3) 3 % 2 ^ Params.noiseWidth m ∧
      (restoreVoice m b v).level.toNat = leNat b (32 + 16 * v.val + 6) 1 ∧
      (restoreVoice m b v).phase = Phase.ofByte (byteAt b (32 + 16 * v.val + 7)) ∧
      (restoreVoice m b v).rc.toNat = leNat b (32 + 16 * v.val + 8) 2 % 2 ^ 15 ∧
      (restoreVoice m b v).exp.toNat = leNat b (32 + 16 * v.val + 10) 1 % 2 ^ 5 := by
  simp only [restoreVoice, voiceOffset, u24At_toNat, u16At_toNat, byteAt_toNat, maskLfsr_toNat, BitVec.toNat_setWidth,
    and_self]

/-- Settles O55: the check is the claim's, and each field is the blob's at its offset, masked. -/
theorem snapshotRestore : Obligations.SnapshotRestore := by
  intro b s hs
  rw [exec_writeState hs]
  refine ⟨rfl, fun hb => ?_, fun hb => if_neg hb⟩
  rw [if_pos hb]
  refine ⟨_, rfl, ?_, fun a => ?_, fun v => ?_, u32At_toNat b 80, u32At_toNat b 84, u32At_toNat b 88, u32At_toNat b 92,
    u32At_toNat b 96, u16At_toNat b 100, u32At_toNat b 102, u16At_toNat b 106⟩
  · rw [restore_frame]
    rfl
  · rw [State.withResult_reg, restore_reg, byteAt_toNat]
  · rw [State.withResult_voice, restore_voice]
    obtain ⟨hacc, hlfsr, hlevel, hphase, hmasked⟩ := restoreVoice_fields s.variant.noiseModel b v
    refine ⟨hacc, hlfsr, hlevel, ?_, hmasked⟩
    rw [hphase, ← byteAt_toNat]
    conv => rhs; rw [← Phase.toByte_ofByte (hb.phase_le v)]
    cases Phase.ofByte (byteAt b (32 + 16 * v.val + 7)) <;> rfl

/-! ## A snapshot, restored -/

theorem voice_eq_of_fields {x y : Voice} (hacc : x.acc.toNat = y.acc.toNat) (hlfsr : x.lfsr.toNat = y.lfsr.toNat)
    (hlevel : x.level.toNat = y.level.toNat) (hphase : x.phase = y.phase) (hrc : x.rc.toNat = y.rc.toNat)
    (hexp : x.exp.toNat = y.exp.toNat) : x = y := by
  cases x
  cases y
  rw [Voice.mk.injEq]
  exact ⟨BitVec.eq_of_toNat_eq hacc, BitVec.eq_of_toNat_eq hlfsr, BitVec.eq_of_toNat_eq hlevel, hphase,
    BitVec.eq_of_toNat_eq hrc, BitVec.eq_of_toNat_eq hexp⟩

/-- A voice restored from a snapshot is the voice it was taken of: no mask drops a bit that a voice has. -/
theorem restoreVoice_snapshot {s : State} (h : LfsrInWidth s) (v : Fin 3) :
    restoreVoice s.variant.noiseModel (snapshot s) v = s.voice v := by
  obtain ⟨hacc, hlfsr, hlevel, hphase, hrc, hexp⟩ := restoreVoice_fields s.variant.noiseModel (snapshot s) v
  obtain ⟨bacc, blfsr, blevel, bphase, brc, bexp, -⟩ := snapshot_voice_fields s v
  have hbyte : byteAt (snapshot s) (32 + 16 * v.val + 7) = (s.voice v).phase.toByte :=
    BitVec.eq_of_toNat_eq ((byteAt_toNat _ _).trans bphase)
  rw [blfsr, Nat.mod_eq_of_lt (h v)] at hlfsr
  rw [hbyte, Phase.ofByte_toByte] at hphase
  rw [brc, Nat.mod_eq_of_lt (s.voice v).rc.isLt] at hrc
  rw [bexp, Nat.mod_eq_of_lt (s.voice v).exp.isLt] at hexp
  exact voice_eq_of_fields (hacc.trans bacc) hlfsr (hlevel.trans blevel) hphase hrc hexp

/-- A snapshot, restored in any state of the same variant, brings back every field it carries. -/
theorem restore_snapshot {s r : State} (h : LfsrInWidth s) (hvariant : r.variant = s.variant) :
    restore (snapshot s) r =
      { r with
        regs := s.regs, voices := s.voices, bp := s.bp, lp := s.lp, extHp := s.extHp, extLp := s.extLp
        extOut := s.extOut, extIn := s.extIn, so := s.so, sprev := s.sprev } := by
  obtain ⟨hbp, hlp, hextHp, hextLp, hextOut, hextIn, hso, hsprev, -⟩ := snapshot_tail_fields s
  have hregs : (restore (snapshot s) r).regs = s.regs := State.regs_ext fun a =>
    BitVec.eq_of_toNat_eq (by rw [restore_reg, byteAt_toNat, leNat_snapshot_reg])
  have hvoices : (restore (snapshot s) r).voices = s.voices := Voices.ext_get fun v =>
    (restore_voice (snapshot s) r v).trans (hvariant ▸ restoreVoice_snapshot h v)
  rw [restore_frame, hregs, hvoices, BitVec.eq_of_toNat_eq ((u32At_toNat _ _).trans hbp),
    BitVec.eq_of_toNat_eq ((u32At_toNat _ _).trans hlp), BitVec.eq_of_toNat_eq ((u32At_toNat _ _).trans hextHp),
    BitVec.eq_of_toNat_eq ((u32At_toNat _ _).trans hextLp), BitVec.eq_of_toNat_eq ((u32At_toNat _ _).trans hextOut),
    BitVec.eq_of_toNat_eq ((u16At_toNat _ _).trans hextIn), BitVec.eq_of_toNat_eq ((u32At_toNat _ _).trans hso),
    BitVec.eq_of_toNat_eq ((u16At_toNat _ _).trans hsprev)]

/-- What a snapshot and the configuration leave open: the ring and the host's fields (R293, R294). -/
theorem with_snapshot_of_sameConfig {s r : State} (h : SameConfig s r) :
    ({ r with
        regs := s.regs, voices := s.voices, bp := s.bp, lp := s.lp, extHp := s.extHp, extLp := s.extLp
        extOut := s.extOut, extIn := s.extIn, so := s.so, sprev := s.sprev, result := .none } : State) =
      { s with
        ring := r.ring, ri := r.ri, cmds := r.cmds, createArgs := r.createArgs, callerBuf := r.callerBuf
        result := .none } := by
  obtain ⟨hvariant, htables, halive, hmodel, hfilterEn, hextEn, hmethod, hclock, hsample, hpass, hscale, hcps⟩ := h
  rw [hvariant, htables, halive, hmodel, hfilterEn, hextEn, hmethod, hclock, hsample, hpass, hscale, hcps]

/-- Settles O56: the restore brings back what the snapshot carries, and the rest is the same configuration. -/
theorem snapshotClones : Obligations.SnapshotClones := by
  intro s s' r t b hwidth hconfig hread hblob hwrite
  have hvariant : r.variant = s.variant := hconfig.1
  obtain ⟨-, hread⟩ := whenAlive_next hread
  obtain rfl := Host.Outcome.next.inj hread
  obtain rfl := Result.blob.inj hblob
  obtain ⟨-, hwrite⟩ := whenAlive_next hwrite
  obtain ⟨-, hwrite⟩ := require_next hwrite
  obtain rfl := Host.Outcome.next.inj hwrite
  rw [restore_snapshot hwidth hvariant]
  exact with_snapshot_of_sameConfig hconfig

end Sys2Proof.Safety
end

section
/-! The table of refusals (spec/60_exceptions.md R303, R304): O7. -/

namespace Sys2Proof.Safety

open Sys2Proof Sys2Proof.Machine

/-- The outcome is the refusal named, or, where none is, a next state. -/
def Answers (o : Outcome) : Option Refusal → Prop
  | some r => o = .refused r
  | none => ∃ t, o = .next t

theorem answers_next (t : State) : Answers (.next t) none := ⟨t, rfl⟩

theorem answers_whenAlive {s : State} (hs : s.alive = true) {o : Outcome} {x : Option Refusal} (h : Answers o x) :
    Answers (whenAlive s o) x := by
  rwa [whenAlive_alive hs]

/-- A check that refuses where its condition fails. -/
theorem answers_require_of_iff {ok : Bool} {p : Prop} [Decidable p] {r : Refusal} {o : Outcome} {x : Option Refusal}
    (hok : ok = true ↔ p) (ho : Answers o x) : Answers (require ok r o) (if p then x else some r) := by
  cases ok with
  | true => rwa [if_pos (hok.mp rfl)]
  | false =>
    rw [if_neg fun hp => Bool.false_ne_true (hok.mpr hp)]
    rfl

/-- The same check, with the condition of the refusal. -/
theorem answers_require_of_iff_not {ok : Bool} {p : Prop} [Decidable p] {r : Refusal} {o : Outcome}
    {x : Option Refusal} (hok : ok = true ↔ ¬p) (ho : Answers o x) :
    Answers (require ok r o) (if p then some r else x) := by
  rw [← ite_not]
  exact answers_require_of_iff hok ho

/-- The checks of a range, as the model and as the table write them. -/
theorem decide_and_decide_iff (p q : Prop) [Decidable p] [Decidable q] :
    (decide p && decide q) = true ↔ p ∧ q := by
  rw [Bool.and_eq_true, decide_eq_true_eq, decide_eq_true_eq]

theorem adjustOk_iff_adjustOk (fs : Rat) (s : State) : adjustOk s.clockFreq fs = true ↔ AdjustOk fs s := by
  rw [adjustOk_iff, cpsInRange, decide_and_decide_iff]
  rfl

theorem answers_setChipModel (m : Int) {s : State} (hs : s.alive = true) :
    Answers (execSetChipModel m s) (if m = 0 ∨ m = 1 then none else some .badModel) := by
  refine answers_whenAlive hs ?_
  by_cases h0 : m = 0
  · rw [if_pos (.inl h0), h0]
    exact answers_next _
  by_cases h1 : m = 1
  · rw [if_pos (.inr h1), h1]
    exact answers_next _
  · rw [if_neg (by simp [h0, h1]), modelOfOperand_eq_none h0 h1]
    rfl

/-- Where `alive` holds, a command but CREATE is refused by its own checks alone. -/
theorem answers_exec_alive {i : Instr} (hi : i ≠ .create) {s : State} (hs : s.alive = true) :
    Answers (exec i s) (refusalOf i s) := by
  have hdead : s.alive ≠ false := by simp [hs]
  unfold refusalOf
  rw [if_neg hi, if_neg hdead]
  cases i with
  | create => exact absurd rfl hi
  | wrFreqLo1 d | wrFreqHi1 d | wrPwLo1 d | wrPwHi1 d | wrCtrl1 d | wrAd1 d | wrSr1 d
  | wrFreqLo2 d | wrFreqHi2 d | wrPwLo2 d | wrPwHi2 d | wrCtrl2 d | wrAd2 d | wrSr2 d
  | wrFreqLo3 d | wrFreqHi3 d | wrPwLo3 d | wrPwHi3 d | wrCtrl3 d | wrAd3 d | wrSr3 d
  | wrFcLo d | wrFcHi d | wrResFilt d | wrModeVol d | wrPotX d | wrPotY d | wrOsc3 d | wrEnv3 d
  | rdFreqLo1 | rdFreqHi1 | rdPwLo1 | rdPwHi1 | rdCtrl1 | rdAd1 | rdSr1
  | rdFreqLo2 | rdFreqHi2 | rdPwLo2 | rdPwHi2 | rdCtrl2 | rdAd2 | rdSr2
  | rdFreqLo3 | rdFreqHi3 | rdPwLo3 | rdPwHi3 | rdCtrl3 | rdAd3 | rdSr3
  | rdFcLo | rdFcHi | rdResFilt | rdModeVol | rdPotX | rdPotY | rdOsc3 | rdEnv3
  | release | reset | enableFilter _ | enableExtFilter _ | clock1 | output | readState =>
    exact answers_whenAlive hs (answers_next _)
  | setChipModel m => exact answers_setChipModel m hs
  | setSamplingParameters fc m fs pass scale =>
    refine answers_whenAlive hs ?_
    split
    · exact answers_next _
    · exact answers_next _
  | adjustSamplingFrequency fs =>
    exact answers_whenAlive hs (answers_require_of_iff (adjustOk_iff_adjustOk fs s) (answers_next _))
  | clockN n => exact answers_whenAlive hs (answers_require_of_iff (decide_and_decide_iff _ _) (answers_next _))
  | clockSamples dt buf n il =>
    refine answers_whenAlive hs (answers_require_of_iff_not ?_ (answers_require_of_iff_not ?_
      (answers_require_of_iff_not ?_ ?_)))
    · rw [not_not, Bool.and_eq_true]
      exact and_congr (decide_and_decide_iff _ _) (decide_and_decide_iff _ _)
    · rw [not_not]
      exact decide_and_decide_iff _ _
    · rw [decide_eq_true_eq, Int.not_lt]
    · exact answers_next _
  | input x => exact answers_whenAlive hs (answers_require_of_iff (decide_and_decide_iff _ _) (answers_next _))
  | outputBits b => exact answers_whenAlive hs (answers_require_of_iff (decide_and_decide_iff _ _) (answers_next _))
  | writeState blob => exact answers_whenAlive hs (answers_require_of_iff (snapshotOk_iff blob) (answers_next _))

/-- Every command answers as the table says: NotAlive comes before its own checks, which stand in the order of the
codes. -/
theorem answers_exec (i : Instr) (s : State) : Answers (exec i s) (refusalOf i s) := by
  by_cases hi : i = .create
  · subst hi
    exact answers_next _
  rcases Bool.eq_false_or_eq_true s.alive with hs | hs
  · exact answers_exec_alive hi hs
  · unfold refusalOf
    rw [if_neg hi, if_pos hs]
    exact exec_of_not_alive hi hs

theorem Answers.refused_iff {o : Outcome} {x : Option Refusal} (h : Answers o x) (r : Refusal) :
    o = .refused r ↔ x = some r := by
  cases x with
  | some r' =>
    rw [show o = .refused r' from h, Host.Outcome.refused.injEq, Option.some.injEq]
  | none =>
    obtain ⟨t, rfl⟩ := h
    exact ⟨nofun, nofun⟩

/-- A reserved word is refused before its command is known, NotAlive first (spec/30_encoding.md R75). -/
theorem step_reserved {s : State} {c : Command} {rest : List Command} (hcmds : s.cmds = c :: rest)
    (hword : ReservedWord c.word) : step s = .refused (if s.alive then .reservedEncoding else .notAlive) := by
  rw [step_of_decode_error hcmds (decode_reserved hword)]
  exact (apply_ite Host.Outcome.refused (s.alive = true) _ _).symm

/-- Settles O7: every command answers as the table says, and a reserved word does not decode. -/
theorem refusedExactly : Obligations.RefusedExactly := by
  refine ⟨fun i s r => (answers_exec i s).refused_iff r, fun i s h => ?_, fun s c rest => step_reserved⟩
  have := answers_exec i s
  rwa [h] at this

end Sys2Proof.Safety
end

section
/-! What RESET leaves (spec/70_reset_and_hazards.md R331): O20. -/

namespace Sys2Proof.Safety

open Sys2Proof Sys2Proof.Machine

/-- RESET leaves its column of R39, the result among it. -/
theorem exec_reset {s : State} (hs : s.alive = true) : exec .reset s = .next s.afterReset := whenAlive_alive hs _

/-- All that RESET can do. -/
theorem exec_reset_next {s t : State} (h : exec .reset s = .next t) : s.alive = true ∧ t = s.afterReset := by
  obtain ⟨hs, h⟩ := whenAlive_next h
  exact ⟨hs, (Host.Outcome.next.inj h).symm⟩

theorem afterReset_idem (s : State) : s.afterReset.afterReset = s.afterReset := rfl

theorem atPowerUp_afterReset (s : State) : AtPowerUp s.afterReset :=
  atPowerUp_of_frame (atPowerUp_created { variant := s.variant, tables := s.tables }) rfl

/-- The state after RESET depends on the preserved fields and the host's alone. -/
theorem afterReset_of_sameConfig {s s' : State} (h : SameConfig s s') :
    s'.afterReset =
      { s.afterReset with cmds := s'.cmds, callerBuf := s'.callerBuf, createArgs := s'.createArgs } := by
  obtain ⟨hvariant, htables, halive, hmodel, hfilterEn, hextEn, hmethod, hclock, hsample, hpass, hscale, hcps⟩ := h
  rw [State.afterReset, hvariant, htables, halive, hmodel, hfilterEn, hextEn, hmethod, hclock, hsample, hpass, hscale,
    hcps]
  rfl

/-- A gate-on write to a voice whose gate is off starts an Attack (spec/43_envelope.md R191). -/
theorem phase_of_gate_on {v : Fin 3} {d : Byte} {s u : State} (hold : (s.ctrl v).getLsbD 0 = false)
    (hnew : d.getLsbD 0 = true) (h : exec (wrCtrl v d) s = .next u) : (u.voice v).phase = .attack := by
  rw [exec_wrCtrl v d (alive_of_exec_wrCtrl h)] at h
  obtain rfl := Host.Outcome.next.inj h
  obtain ⟨hphase, -⟩ := ctrlEffect_voice_envelope v (s.ctrl v) d (s.withReg (voiceAddr v 4) d)
  rw [State.withResult_voice, hphase, if_pos ⟨hold, hnew⟩]

/-- An output of 0 is 0 at every depth. -/
theorem outOf_eq_zero {s : State} (h : s.extOut = 0#32) : outOf s = 0 := by
  rw [outOf, h]
  decide

/-- Settles O20: every clause is read off the column of R39 for RESET. -/
theorem resetProperties : Obligations.ResetProperties := by
  intro s t ht
  obtain ⟨hs, rfl⟩ := exec_reset_next ht
  have halive : s.afterReset.alive = true := hs
  have hpower := atPowerUp_afterReset s
  have hctrl : ∀ v, s.afterReset.ctrl v = 0#8 := fun v => hpower.regs _
  refine ⟨exec_reset halive, fun s' t' hconfig ht' => ?_, fun v => ⟨hpower.phase v, hpower.level v⟩,
    fun v d u hd => phase_of_gate_on (by rw [hctrl]; rfl) hd, fun p hp => ?_, ?_, ?_, exec_rdPotX halive,
    exec_rdPotY halive, ?_⟩
  · obtain ⟨-, rfl⟩ := exec_reset_next ht'
    exact afterReset_of_sameConfig hconfig
  · obtain ⟨hrow, ha⟩ := storedReads_row hp
    rw [exec_readRow_stored_alive hrow ha halive, hpower.regs]
    rfl
  · rw [exec_rdOsc3 halive, wave_eq_zero_of_sel (sel_eq_zero_of_lt (by rw [hctrl]; decide))]
    rfl
  · rw [exec_rdEnv3 halive, hpower.level]
    rfl
  · obtain ⟨-, -, -, hout⟩ := outputScaling s.afterReset halive
    rw [hout, outOf_eq_zero hpower.extOut]

end Sys2Proof.Safety
end

section
/-! The rate counter that is past its period (spec/70_reset_and_hazards.md R336): O49. -/

namespace Sys2Proof.Machine

open Sys2Proof Sys2Proof.Safety

/-- The rate counter c cycles after it stood at `start`, if no event clears it: up to 0x7FFF, then on from 1 (R195). -/
def rcAfter (start c : Nat) : Nat := if start + c < 32768 then start + c else start + c - 32767

theorem rcNext_of_rcAfter {rc : BitVec 15} {start c : Nat} (h : rc.toNat = rcAfter start c) (hc : start + c < 65534) :
    rcNext rc = rcAfter start (c + 1) := by
  rw [rcNext, h]
  unfold rcAfter
  split <;> split <;> split <;> omega

/-- It is never 0: the wrap skips that value. -/
theorem rcAfter_pos {start : Nat} (h : 0 < start) (c : Nat) : 0 < rcAfter start c := by
  unfold rcAfter
  split <;> omega

/-- The envelope is as it was c cycles before, but for the rate counter, which has run on from there. -/
structure RunsOn (x : Voice) (c : Nat) (y : Voice) : Prop where
  level : y.level = x.level
  exp   : y.exp = x.exp
  phase : y.phase = x.phase
  rc    : y.rc.toNat = rcAfter x.rc.toNat c

/-- The cycles that a counter past its period p takes to meet it. -/
def overshoot (rc p : Nat) : Nat := 32768 - rc + p - 1

/-- In these cycles it meets the period in the last alone. -/
theorem rcAfter_eq_iff {start p c : Nat} (hp : 0 < p) (hlow : p < start) (hhigh : start < 32768)
    (hc : c ≤ overshoot start p) : rcAfter start c = p ↔ c = overshoot start p := by
  unfold overshoot at *
  unfold rcAfter
  split <;> omega

/-- The period of a voice depends on its phase and the registers. -/
theorem periodOf_clock {s : State} {v : Fin 3} {c : Nat} (h : ((clock c s).voice v).phase = (s.voice v).phase) :
    periodOf (clock c s) v = periodOf s v := by
  rw [periodOf, h, clock_reg, clock_reg]
  rfl

/-- Until it meets the period, the counter runs on and the envelope does not move. -/
theorem runsOn_clock {s : State} {v : Fin 3} (h : periodOf s v < (s.voice v).rc.toNat) {c : Nat}
    (hc : c < overshoot (s.voice v).rc.toNat (periodOf s v)) : RunsOn (s.voice v) c ((clock c s).voice v) := by
  obtain ⟨hp, -⟩ := periodOf_bounds s v
  have hrc := (s.voice v).rc.isLt
  induction c with
  | zero => exact ⟨rfl, rfl, rfl, (if_pos hrc).symm⟩
  | succ c ih =>
    obtain ⟨hlevel, hexp, hphase, hnow⟩ := ih (Nat.lt_of_succ_lt hc)
    have hnext := rcNext_of_rcAfter hnow (by unfold overshoot at hc; omega)
    have hno : rcNext ((clock c s).voice v).rc ≠ periodOf (clock c s) v := by
      rw [hnext, periodOf_clock hphase, ne_eq, rcAfter_eq_iff (by omega) h hrc hc.le]
      exact hc.ne
    obtain ⟨hrc', hlevel', hphase', hexp'⟩ := cycleStep_envelope_of_no_event hno
    rw [clock_succ_last]
    exact ⟨hlevel'.trans hlevel, hexp'.trans hexp, hphase'.trans hphase, hrc'.trans hnext⟩

/-- An event clears the rate counter, in every phase (R195). -/
theorem cycleStep_rc_of_event {s : State} {v : Fin 3} (h : rcNext (s.voice v).rc = periodOf s v) :
    ((cycleStep s).voice v).rc = 0#15 := by
  by_cases hp : (s.voice v).phase = .attack
  · obtain ⟨hrc, -⟩ := cycleStep_envelope_of_attack_event h hp
    exact hrc
  · obtain ⟨hrc, -⟩ := cycleStep_envelope_of_fall_event h hp
    exact hrc

/-- Settles O49: the counter meets the period in the last of the cycles and in none before. -/
theorem rateCounterOvershoot : Obligations.RateCounterOvershoot := by
  intro s v h n
  obtain ⟨hlow, hhigh⟩ := periodOf_bounds s v
  have hrc := (s.voice v).rc.isLt
  have hn : n = overshoot (s.voice v).rc.toNat (periodOf s v) := rfl
  refine ⟨by omega, fun c hc => ?_, ?_⟩
  · obtain ⟨hlevel, hexp, hphase, hnow⟩ := runsOn_clock h hc
    refine ⟨hlevel, hexp, hphase, fun hzero => ?_⟩
    have hpos := rcAfter_pos (Nat.zero_lt_of_lt h) c
    rw [hzero, BitVec.toNat_ofNat] at hnow
    omega
  · obtain ⟨k, hk⟩ : ∃ k, n = k + 1 := ⟨n - 1, by omega⟩
    obtain ⟨-, -, hphase, hnow⟩ := runsOn_clock (c := k) h (by omega)
    rw [hk, clock_succ_last]
    refine cycleStep_rc_of_event ?_
    rw [rcNext_of_rcAfter hnow (by omega), periodOf_clock hphase, rcAfter_eq_iff (by omega) h hrc (by omega)]
    omega

end Sys2Proof.Machine
end
